-- ==== Sys2Proof/Word.lean ====
section
/-! DEFINITION. The word, byte and field types of the LR33000 (00_scope.md R6, R8; 30_encoding.md R80). -/

namespace Sys2Proof

/-- A register, an address or an instruction: `XLEN` = `ILEN` = 32 bits (R6). -/
abbrev Word := BitVec 32

/-- A halfword, 16 bits (glossary of 00_scope.md). -/
abbrev Half := BitVec 16

/-- The smallest addressable unit, 8 bits (R50). -/
abbrev Byte := BitVec 8

/-- A 5-bit general register number, the fields rs, rt and rd (R80). -/
abbrev Reg := BitVec 5

/-- A 5-bit coprocessor register number, the rd field of MFCz and MTCz (R97). -/
abbrev CopReg := BitVec 5

/-- A coprocessor unit number z, bits 27:26 of a COPz word (R84). -/
abbrev CopUnit := BitVec 2

/-- The 16-bit immediate, branch or address displacement (R81). -/
abbrev Imm := BitVec 16

end Sys2Proof
end

