-- ==== Sys2Proof/Config.lean ====
section
/-! DEFINITION. The parameters of 00_scope.md R6, which the model takes as an argument (they stand in
the state, `State.cfg`, and no step changes them), their defaults, and the free values that stand for
`UNDEF32` of R11. -/

namespace Sys2Proof

/-- `MULT_FUNCT_VARIANT` (R6, R182): the function codes of MULT and MULTU. -/
inductive MultVariant where
  /-- MULT 001110, MULTU 011000, as the source prints them -/
  | asPrinted
  /-- MULT 011000, MULTU 011001 -/
  | mips1Conventional
deriving DecidableEq, Repr

/-- `MBZ_POLICY` (R6, R94): what a word does whose must-be-zero field is not zero. -/
inductive MbzPolicy where
  | refuse
  | ignore
  | reservedInstruction
deriving DecidableEq, Repr

/-- `MTC_VISIBILITY` (R6, R247): whether the instruction after MTC0 sees the new value. -/
inductive MtcVisibility where
  /-- the default: a step whose outcome depends on the answer is refused -/
  | unspecified
  | next
  | afterOne
deriving DecidableEq, Repr

/-- `DIV_NUMERICS` (R6, R187): the results in the division corners. -/
inductive DivNumerics where
  /-- the default: undefined values -/
  | undefined
  /-- the values R187 reports for R3000-class hardware -/
  | r3000
deriving DecidableEq, Repr

/-- The kinds of access the platform's oracles distinguish (R65). -/
inductive AccessKind where
  | fetch
  | load
  | store
deriving DecidableEq, Repr

/-- A range of physical byte addresses and the kinds of access it concerns: the plain-data form of
the predicate `Mapped` and of the oracle `BusError` (R54, R65). -/
structure Region where
  base : Nat
  size : Nat
  forFetch : Bool
  forLoad : Bool
  forStore : Bool
deriving DecidableEq, Repr

/-- `EXC_CODE(e)` (R6, R283). -/
structure ExcCodes where
  int : BitVec 5
  adel : BitVec 5
  ades : BitVec 5
  ibe : BitVec 5
  dbe : BitVec 5
  sys : BitVec 5
  bp : BitVec 5
  ri : BitVec 5
  cpu : BitVec 5
  ov : BitVec 5
deriving DecidableEq, Repr

/-- `CP0_MAP` (R6, R248). -/
structure Cp0Map where
  sr : CopReg
  cause : CopReg
  epc : CopReg
  badVAddr : CopReg
  prid : CopReg
deriving DecidableEq, Repr

/-- The parameters of R6. -/
structure Config where
  /-- `BigEndian` (R31) -/
  bigEndian : Bool
  /-- `SUPPORTED_COP`, bit z for unit z (R223). No meaning reads it: the parameter only documents the chip
  (92_eei_decisions.md D3). -/
  supportedCop : BitVec 4
  /-- `BC_VALID_Z`, bit z for unit z (R225); unit 0 is always in the set, whatever bit 0 says -/
  bcValidZ : BitVec 4
  multVariant : MultVariant
  mbzPolicy : MbzPolicy
  kseg0Base : Word
  kseg1Base : Word
  ksegSize : Word
  userLimit : Word
  resetPc : Word
  /-- `EXC_VECTOR(SR)` when SR.BEV = 0 (R290) -/
  excVector : Word
  /-- `EXC_VECTOR(SR)` when SR.BEV = 1 (R290) -/
  excVectorBoot : Word
  excCodes : ExcCodes
  cp0Map : Cp0Map
  divNumerics : DivNumerics
  mtcVisibility : MtcVisibility
  /-- `Mapped` (R54) -/
  mapped : List Region
  /-- `BusError` (R65) -/
  busErrors : List Region
deriving DecidableEq, Repr

/-- The default values of R6. Where R6 gives none: `bigEndian` is DESIGN CHOICE (unsafe, log entry 2),
`mapped` is DESIGN CHOICE (unsafe, log entry 3). -/
def Config.default : Config where
  bigEndian := true
  supportedCop := 0b0000#4
  bcValidZ := 0b0001#4
  multVariant := .asPrinted
  mbzPolicy := .refuse
  kseg0Base := 0x80000000#32
  kseg1Base := 0xA0000000#32
  ksegSize := 0x20000000#32
  userLimit := 0x80000000#32
  resetPc := 0xBFC00000#32
  excVector := 0x80000080#32
  excVectorBoot := 0xBFC00180#32
  excCodes :=
    { int := 0#5, adel := 4#5, ades := 5#5, ibe := 6#5, dbe := 7#5,
      sys := 8#5, bp := 9#5, ri := 10#5, cpu := 11#5, ov := 12#5 }
  cp0Map := { sr := 12#5, cause := 13#5, epc := 14#5, badVAddr := 8#5, prid := 15#5 }
  divNumerics := .undefined
  mtcVisibility := .unspecified
  mapped := [{ base := 0, size := 4294967296, forFetch := true, forLoad := true, forStore := true }]
  busErrors := []

/-- `UNDEF32` (R11): the undefined values. `freeWord t k` is the k-th free value of the step whose
counter is t. It has no body, so nothing can be proved about any of its values (log entry 9, safe). -/
opaque Config.freeWord : Nat → Nat → Word

end Sys2Proof
end

