-- ==== Sys2Proof/Syntax.lean ====
section
/-! DEFINITION. The instructions: one constructor for each row of spec/opcode_table.json
(30_encoding.md R86 to R92), its operands the row's fields in the order of the instruction word. -/

namespace Sys2Proof

/-- An LR33000 instruction. Registers are 5-bit fields, so every field value is an operand. -/
inductive Instr where
  -- loads and stores: base, rt, offset (R110)
  | lb (base rt : Reg) (offset : Imm)
  | lbu (base rt : Reg) (offset : Imm)
  | lh (base rt : Reg) (offset : Imm)
  | lhu (base rt : Reg) (offset : Imm)
  | lw (base rt : Reg) (offset : Imm)
  | lwl (base rt : Reg) (offset : Imm)
  | lwr (base rt : Reg) (offset : Imm)
  | sb (base rt : Reg) (offset : Imm)
  | sh (base rt : Reg) (offset : Imm)
  | sw (base rt : Reg) (offset : Imm)
  | swl (base rt : Reg) (offset : Imm)
  | swr (base rt : Reg) (offset : Imm)
  -- immediate computational (R81)
  | addi (rs rt : Reg) (imm : Imm)
  | addiu (rs rt : Reg) (imm : Imm)
  | slti (rs rt : Reg) (imm : Imm)
  | sltiu (rs rt : Reg) (imm : Imm)
  | andi (rs rt : Reg) (imm : Imm)
  | ori (rs rt : Reg) (imm : Imm)
  | xori (rs rt : Reg) (imm : Imm)
  | lui (rt : Reg) (imm : Imm)
  -- register computational (R83)
  | add (rs rt rd : Reg)
  | addu (rs rt rd : Reg)
  | sub (rs rt rd : Reg)
  | subu (rs rt rd : Reg)
  | and (rs rt rd : Reg)
  | or (rs rt rd : Reg)
  | xor (rs rt rd : Reg)
  | nor (rs rt rd : Reg)
  | slt (rs rt rd : Reg)
  | sltu (rs rt rd : Reg)
  -- shifts (R159 to R164)
  | sll (rt rd : Reg) (shamt : BitVec 5)
  | srl (rt rd : Reg) (shamt : BitVec 5)
  | sra (rt rd : Reg) (shamt : BitVec 5)
  | sllv (rs rt rd : Reg)
  | srlv (rs rt rd : Reg)
  | srav (rs rt rd : Reg)
  -- multiply and divide (R180)
  | mult (rs rt : Reg)
  | multu (rs rt : Reg)
  | div (rs rt : Reg)
  | divu (rs rt : Reg)
  -- jumps (R194 to R197)
  | j (target : BitVec 26)
  | jal (target : BitVec 26)
  | jr (rs : Reg)
  | jalr (rs rd : Reg)
  -- branches (R198 to R205)
  | beq (rs rt : Reg) (offset : Imm)
  | bne (rs rt : Reg) (offset : Imm)
  | blez (rs : Reg) (offset : Imm)
  | bgtz (rs : Reg) (offset : Imm)
  | bltz (rs : Reg) (offset : Imm)
  | bgez (rs : Reg) (offset : Imm)
  | bltzal (rs : Reg) (offset : Imm)
  | bgezal (rs : Reg) (offset : Imm)
  -- coprocessor branches (R225, R226)
  | bc0f (offset : Imm)
  | bc0t (offset : Imm)
  | bc1f (offset : Imm)
  | bc1t (offset : Imm)
  | bc2f (offset : Imm)
  | bc2t (offset : Imm)
  | bc3f (offset : Imm)
  | bc3t (offset : Imm)
  -- coprocessor moves (R227, R228, R241, R245)
  | mfc0 (rt : Reg) (rd : CopReg)
  | mtc0 (rt : Reg) (rd : CopReg)
  | mfc1 (rt : Reg) (rd : CopReg)
  | mtc1 (rt : Reg) (rd : CopReg)
  | mfc2 (rt : Reg) (rd : CopReg)
  | mtc2 (rt : Reg) (rd : CopReg)
  | mfc3 (rt : Reg) (rd : CopReg)
  | mtc3 (rt : Reg) (rd : CopReg)
  -- coprocessor 0 operations (R243, R244)
  | rfe
  -- special (R261 to R266)
  | syscall (code : BitVec 20)
  | brk (code : BitVec 20)
  | mfhi (rd : Reg)
  | mthi (rs : Reg)
  | mflo (rd : Reg)
  | mtlo (rs : Reg)
  -- the unimplemented TLB instructions (R96, R244)
  | tlbr
  | tlbwi
  | tlbwr
  | tlbp
deriving DecidableEq, Repr

end Sys2Proof
end

