-- ==== Sys2Proof/Decode.lean ====
section
/-! DEFINITION. The decoder of 30_encoding.md R92, with the fields of R80 to R84, and after it the
encoder written from the same tables (R86 to R91). -/

namespace Sys2Proof

/-! ### Fields of an instruction word (R81 to R84) -/

/-- op, bits 31:26 -/
def fieldOp (w : Word) : BitVec 6 := w.extractLsb' 26 6
/-- rs (alias base), bits 25:21 -/
def fieldRs (w : Word) : Reg := w.extractLsb' 21 5
/-- rt, bits 20:16 -/
def fieldRt (w : Word) : Reg := w.extractLsb' 16 5
/-- rd, bits 15:11 -/
def fieldRd (w : Word) : Reg := w.extractLsb' 11 5
/-- shamt, bits 10:6 -/
def fieldShamt (w : Word) : BitVec 5 := w.extractLsb' 6 5
/-- funct, bits 5:0 -/
def fieldFunct (w : Word) : BitVec 6 := w.extractLsb' 0 6
/-- immediate (alias offset), bits 15:0 -/
def fieldImm (w : Word) : Imm := w.extractLsb' 0 16
/-- target, bits 25:0 -/
def fieldTarget (w : Word) : BitVec 26 := w.extractLsb' 0 26
/-- code of SYSCALL and BREAK, bits 25:6 -/
def fieldCode (w : Word) : BitVec 20 := w.extractLsb' 6 20
/-- the low eleven bits of a coprocessor move, bits 10:0 -/
def fieldLow11 (w : Word) : BitVec 11 := w.extractLsb' 0 11
/-- CO, bit 25 of a COPz word -/
def fieldCo (w : Word) : BitVec 1 := w.extractLsb' 25 1
/-- bits 24:0 of a COP0 operation: the must-be-zero bits 24:5 and the minor opcode 4:0 -/
def fieldCofun (w : Word) : BitVec 25 := w.extractLsb' 0 25

/-- What a word is (R92, R93, R94). -/
inductive Decoded where
  /-- an instruction, its constant-zero fields zero -/
  | instr (i : Instr)
  /-- the opcode fields select `i`, but a constant-zero field is not zero (R94): `MBZ_POLICY` decides -/
  | mustBeZero (i : Instr)
  /-- an undefined encoding (R93): Reserved Instruction -/
  | reserved
  /-- a word of coprocessor z = 1, 2 or 3 that no row of the table gives (R220, R224) -/
  | copUnassigned (z : CopUnit)
deriving DecidableEq, Repr

/-- The instruction, where the word is one. -/
def Decoded.instr? : Decoded → Option Instr
  | .instr i => some i
  | .mustBeZero _ => none
  | .reserved => none
  | .copUnassigned _ => none

/-- R94: the selected instruction, provided its constant-zero fields are zero. -/
def withZeroField (isZero : Bool) (i : Instr) : Decoded :=
  if isZero then .instr i else .mustBeZero i

/-- Table 4, op = SPECIAL, by funct (R87). MULT and MULTU stand where `MULT_FUNCT_VARIANT` puts them
(R182). -/
def decodeSpecial (v : MultVariant) (w : Word) : Decoded :=
  let rs := fieldRs w
  let rt := fieldRt w
  let rd := fieldRd w
  let shamt := fieldShamt w
  let rsZero := rs == 0#5
  let rtZero := rt == 0#5
  let rdZero := rd == 0#5
  let shamtZero := shamt == 0#5
  match fieldFunct w with
  | 0b000000#6 => withZeroField rsZero (.sll rt rd shamt)
  | 0b000010#6 => withZeroField rsZero (.srl rt rd shamt)
  | 0b000011#6 => withZeroField rsZero (.sra rt rd shamt)
  | 0b000100#6 => withZeroField shamtZero (.sllv rs rt rd)
  | 0b000110#6 => withZeroField shamtZero (.srlv rs rt rd)
  | 0b000111#6 => withZeroField shamtZero (.srav rs rt rd)
  | 0b001000#6 => withZeroField (rtZero && rdZero && shamtZero) (.jr rs)
  | 0b001001#6 => withZeroField (rtZero && shamtZero) (.jalr rs rd)
  | 0b001100#6 => .instr (.syscall (fieldCode w))
  | 0b001101#6 => .instr (.brk (fieldCode w))
  | 0b001110#6 =>
    match v with
    | .asPrinted => withZeroField (rdZero && shamtZero) (.mult rs rt)
    | .mips1Conventional => .reserved
  | 0b010000#6 => withZeroField (rsZero && rtZero && shamtZero) (.mfhi rd)
  | 0b010001#6 => withZeroField (rtZero && rdZero && shamtZero) (.mthi rs)
  | 0b010010#6 => withZeroField (rsZero && rtZero && shamtZero) (.mflo rd)
  | 0b010011#6 => withZeroField (rtZero && rdZero && shamtZero) (.mtlo rs)
  | 0b011000#6 =>
    match v with
    | .asPrinted => withZeroField (rdZero && shamtZero) (.multu rs rt)
    | .mips1Conventional => withZeroField (rdZero && shamtZero) (.mult rs rt)
  | 0b011001#6 =>
    match v with
    | .asPrinted => .reserved
    | .mips1Conventional => withZeroField (rdZero && shamtZero) (.multu rs rt)
  | 0b011010#6 => withZeroField (rdZero && shamtZero) (.div rs rt)
  | 0b011011#6 => withZeroField (rdZero && shamtZero) (.divu rs rt)
  | 0b100000#6 => withZeroField shamtZero (.add rs rt rd)
  | 0b100001#6 => withZeroField shamtZero (.addu rs rt rd)
  | 0b100010#6 => withZeroField shamtZero (.sub rs rt rd)
  | 0b100011#6 => withZeroField shamtZero (.subu rs rt rd)
  | 0b100100#6 => withZeroField shamtZero (.and rs rt rd)
  | 0b100101#6 => withZeroField shamtZero (.or rs rt rd)
  | 0b100110#6 => withZeroField shamtZero (.xor rs rt rd)
  | 0b100111#6 => withZeroField shamtZero (.nor rs rt rd)
  | 0b101010#6 => withZeroField shamtZero (.slt rs rt rd)
  | 0b101011#6 => withZeroField shamtZero (.sltu rs rt rd)
  | _ => .reserved

/-- Table 5, op = REGIMM, by the rt field (R88). -/
def decodeRegimm (w : Word) : Decoded :=
  match fieldRt w with
  | 0b00000#5 => .instr (.bltz (fieldRs w) (fieldImm w))
  | 0b00001#5 => .instr (.bgez (fieldRs w) (fieldImm w))
  | 0b10000#5 => .instr (.bltzal (fieldRs w) (fieldImm w))
  | 0b10001#5 => .instr (.bgezal (fieldRs w) (fieldImm w))
  | _ => .reserved

/-- MFCz (R227), by unit. -/
def mfcInstr (z : CopUnit) (rt : Reg) (rd : CopReg) : Instr :=
  match z with
  | 0#2 => .mfc0 rt rd
  | 1#2 => .mfc1 rt rd
  | 2#2 => .mfc2 rt rd
  | _ => .mfc3 rt rd

/-- MTCz (R228), by unit. -/
def mtcInstr (z : CopUnit) (rt : Reg) (rd : CopReg) : Instr :=
  match z with
  | 0#2 => .mtc0 rt rd
  | 1#2 => .mtc1 rt rd
  | 2#2 => .mtc2 rt rd
  | _ => .mtc3 rt rd

/-- BCzF (R225), by unit. -/
def bcfInstr (z : CopUnit) (offset : Imm) : Instr :=
  match z with
  | 0#2 => .bc0f offset
  | 1#2 => .bc1f offset
  | 2#2 => .bc2f offset
  | _ => .bc3f offset

/-- BCzT (R226), by unit. -/
def bctInstr (z : CopUnit) (offset : Imm) : Instr :=
  match z with
  | 0#2 => .bc0t offset
  | 1#2 => .bc1t offset
  | 2#2 => .bc2t offset
  | _ => .bc3t offset

/-- A word of unit z that no row of the tables gives: Reserved Instruction for unit 0 (R93, R240),
a word of an unsupported coprocessor for units 1 to 3 (R220, R224). -/
def copNoRow (z : CopUnit) : Decoded :=
  if z = 0#2 then .reserved else .copUnassigned z

/-- A coprocessor move whose bits 10:0 are not zero. For unit 0 it falls under `MBZ_POLICY` (R94); for
units 1 to 3 it goes where every COPz word goes, "whatever bits 25:0 hold" (R220; log entry 21). -/
def copMove (z : CopUnit) (w : Word) (i : Instr) : Decoded :=
  if fieldLow11 w == 0#11 then .instr i
  else if z = 0#2 then .mustBeZero i
  else .copUnassigned z

/-- The COP0 operations, CO = 1, by bits 24:0: RFE (R91, R243) and the four TLB instructions (R244).
Every other such word is reserved, RFE's pattern with any of bits 24:5 set among them (R93; log entry 20). -/
def decodeCop0Operation (w : Word) : Decoded :=
  match fieldCofun w with
  | 0b10000#25 => .instr .rfe
  | 0b00001#25 => .instr .tlbr
  | 0b00010#25 => .instr .tlbwi
  | 0b00110#25 => .instr .tlbwr
  | 0b01000#25 => .instr .tlbp
  | _ => .reserved

/-- op = COPz: Tables 6, 7 and 8 (R89, R90, R91). -/
def decodeCop (z : CopUnit) (w : Word) : Decoded :=
  if fieldCo w = 1#1 then
    if z = 0#2 then decodeCop0Operation w else .copUnassigned z
  else
    match fieldRs w with
    | 0b00000#5 => copMove z w (mfcInstr z (fieldRt w) (fieldRd w))
    | 0b00100#5 => copMove z w (mtcInstr z (fieldRt w) (fieldRd w))
    | 0b01000#5 =>
      match fieldRt w with
      | 0b00000#5 => .instr (bcfInstr z (fieldImm w))
      | 0b00001#5 => .instr (bctInstr z (fieldImm w))
      | _ => copNoRow z
    | _ => copNoRow z

/-- R92: the word's instruction, by Table 3 (R86). Total: a word that is no instruction is named. -/
def decode (v : MultVariant) (w : Word) : Decoded :=
  let rs := fieldRs w
  let rt := fieldRt w
  let imm := fieldImm w
  match fieldOp w with
  | 0b000000#6 => decodeSpecial v w
  | 0b000001#6 => decodeRegimm w
  | 0b000010#6 => .instr (.j (fieldTarget w))
  | 0b000011#6 => .instr (.jal (fieldTarget w))
  | 0b000100#6 => .instr (.beq rs rt imm)
  | 0b000101#6 => .instr (.bne rs rt imm)
  | 0b000110#6 => withZeroField (rt == 0#5) (.blez rs imm)
  | 0b000111#6 => withZeroField (rt == 0#5) (.bgtz rs imm)
  | 0b001000#6 => .instr (.addi rs rt imm)
  | 0b001001#6 => .instr (.addiu rs rt imm)
  | 0b001010#6 => .instr (.slti rs rt imm)
  | 0b001011#6 => .instr (.sltiu rs rt imm)
  | 0b001100#6 => .instr (.andi rs rt imm)
  | 0b001101#6 => .instr (.ori rs rt imm)
  | 0b001110#6 => .instr (.xori rs rt imm)
  | 0b001111#6 => withZeroField (rs == 0#5) (.lui rt imm)
  | 0b010000#6 => decodeCop 0#2 w
  | 0b010001#6 => decodeCop 1#2 w
  | 0b010010#6 => decodeCop 2#2 w
  | 0b010011#6 => decodeCop 3#2 w
  | 0b100000#6 => .instr (.lb rs rt imm)
  | 0b100001#6 => .instr (.lh rs rt imm)
  | 0b100010#6 => .instr (.lwl rs rt imm)
  | 0b100011#6 => .instr (.lw rs rt imm)
  | 0b100100#6 => .instr (.lbu rs rt imm)
  | 0b100101#6 => .instr (.lhu rs rt imm)
  | 0b100110#6 => .instr (.lwr rs rt imm)
  | 0b101000#6 => .instr (.sb rs rt imm)
  | 0b101001#6 => .instr (.sh rs rt imm)
  | 0b101010#6 => .instr (.swl rs rt imm)
  | 0b101011#6 => .instr (.sw rs rt imm)
  | 0b101110#6 => .instr (.swr rs rt imm)
  | _ => .reserved

/-- The host's reading of a table word: the `nbits` low bits of `w`, every higher bit zero, as the one
instruction word they are (R80: every instruction is one 32-bit word), under the default
`MULT_FUNCT_VARIANT`. The byte order of the store (R56) and of the fetch (R62) cancel, so the word
reaches the decoder as it is. -/
def decodeTableWord (nbits w : Nat) : Option Instr :=
  (decode Config.default.multVariant (BitVec.ofNat 32 (w % 2 ^ nbits))).instr?

/-! ### The encoder -/

/-- I-type (R81). -/
def encodeI (op : BitVec 6) (rs rt : Reg) (imm : Imm) : Word := op ++ rs ++ rt ++ imm

/-- J-type (R82). -/
def encodeJ (op : BitVec 6) (target : BitVec 26) : Word := op ++ target

/-- R-type, op = SPECIAL (R83). -/
def encodeR (rs rt rd : Reg) (shamt : BitVec 5) (funct : BitVec 6) : Word :=
  0b000000#6 ++ rs ++ rt ++ rd ++ shamt ++ funct

/-- SPECIAL with a code field (R84). -/
def encodeCode (code : BitVec 20) (funct : BitVec 6) : Word := 0b000000#6 ++ code ++ funct

/-- COPz move (R84): the minor opcode MF or MT in the rs field, bits 10:0 zero. -/
def encodeCopMove (z : CopUnit) (minor : BitVec 5) (rt : Reg) (rd : CopReg) : Word :=
  0b0100#4 ++ z ++ minor ++ rt ++ rd ++ 0#11

/-- COPz branch (R84): BC in the rs field, BCF or BCT in the rt field. -/
def encodeCopBranch (z : CopUnit) (cond : BitVec 5) (offset : Imm) : Word :=
  0b0100#4 ++ z ++ 0b01000#5 ++ cond ++ offset

/-- COP0 operation (R84): CO = 1, bits 24:5 zero. -/
def encodeCop0Operation (minor : BitVec 5) : Word := 0b010000#6 ++ 1#1 ++ 0#20 ++ minor

/-- The function code of MULT (R182). -/
def multFunct : MultVariant → BitVec 6
  | .asPrinted => 0b001110#6
  | .mips1Conventional => 0b011000#6

/-- The function code of MULTU (R182). -/
def multuFunct : MultVariant → BitVec 6
  | .asPrinted => 0b011000#6
  | .mips1Conventional => 0b011001#6

/-- The word of an instruction (R86 to R91). -/
def encode (v : MultVariant) : Instr → Word
  | .lb base rt offset => encodeI 0b100000#6 base rt offset
  | .lbu base rt offset => encodeI 0b100100#6 base rt offset
  | .lh base rt offset => encodeI 0b100001#6 base rt offset
  | .lhu base rt offset => encodeI 0b100101#6 base rt offset
  | .lw base rt offset => encodeI 0b100011#6 base rt offset
  | .lwl base rt offset => encodeI 0b100010#6 base rt offset
  | .lwr base rt offset => encodeI 0b100110#6 base rt offset
  | .sb base rt offset => encodeI 0b101000#6 base rt offset
  | .sh base rt offset => encodeI 0b101001#6 base rt offset
  | .sw base rt offset => encodeI 0b101011#6 base rt offset
  | .swl base rt offset => encodeI 0b101010#6 base rt offset
  | .swr base rt offset => encodeI 0b101110#6 base rt offset
  | .addi rs rt imm => encodeI 0b001000#6 rs rt imm
  | .addiu rs rt imm => encodeI 0b001001#6 rs rt imm
  | .slti rs rt imm => encodeI 0b001010#6 rs rt imm
  | .sltiu rs rt imm => encodeI 0b001011#6 rs rt imm
  | .andi rs rt imm => encodeI 0b001100#6 rs rt imm
  | .ori rs rt imm => encodeI 0b001101#6 rs rt imm
  | .xori rs rt imm => encodeI 0b001110#6 rs rt imm
  | .lui rt imm => encodeI 0b001111#6 0#5 rt imm
  | .add rs rt rd => encodeR rs rt rd 0#5 0b100000#6
  | .addu rs rt rd => encodeR rs rt rd 0#5 0b100001#6
  | .sub rs rt rd => encodeR rs rt rd 0#5 0b100010#6
  | .subu rs rt rd => encodeR rs rt rd 0#5 0b100011#6
  | .and rs rt rd => encodeR rs rt rd 0#5 0b100100#6
  | .or rs rt rd => encodeR rs rt rd 0#5 0b100101#6
  | .xor rs rt rd => encodeR rs rt rd 0#5 0b100110#6
  | .nor rs rt rd => encodeR rs rt rd 0#5 0b100111#6
  | .slt rs rt rd => encodeR rs rt rd 0#5 0b101010#6
  | .sltu rs rt rd => encodeR rs rt rd 0#5 0b101011#6
  | .sll rt rd shamt => encodeR 0#5 rt rd shamt 0b000000#6
  | .srl rt rd shamt => encodeR 0#5 rt rd shamt 0b000010#6
  | .sra rt rd shamt => encodeR 0#5 rt rd shamt 0b000011#6
  | .sllv rs rt rd => encodeR rs rt rd 0#5 0b000100#6
  | .srlv rs rt rd => encodeR rs rt rd 0#5 0b000110#6
  | .srav rs rt rd => encodeR rs rt rd 0#5 0b000111#6
  | .mult rs rt => encodeR rs rt 0#5 0#5 (multFunct v)
  | .multu rs rt => encodeR rs rt 0#5 0#5 (multuFunct v)
  | .div rs rt => encodeR rs rt 0#5 0#5 0b011010#6
  | .divu rs rt => encodeR rs rt 0#5 0#5 0b011011#6
  | .j target => encodeJ 0b000010#6 target
  | .jal target => encodeJ 0b000011#6 target
  | .jr rs => encodeR rs 0#5 0#5 0#5 0b001000#6
  | .jalr rs rd => encodeR rs 0#5 rd 0#5 0b001001#6
  | .beq rs rt offset => encodeI 0b000100#6 rs rt offset
  | .bne rs rt offset => encodeI 0b000101#6 rs rt offset
  | .blez rs offset => encodeI 0b000110#6 rs 0#5 offset
  | .bgtz rs offset => encodeI 0b000111#6 rs 0#5 offset
  | .bltz rs offset => encodeI 0b000001#6 rs 0b00000#5 offset
  | .bgez rs offset => encodeI 0b000001#6 rs 0b00001#5 offset
  | .bltzal rs offset => encodeI 0b000001#6 rs 0b10000#5 offset
  | .bgezal rs offset => encodeI 0b000001#6 rs 0b10001#5 offset
  | .bc0f offset => encodeCopBranch 0#2 0b00000#5 offset
  | .bc0t offset => encodeCopBranch 0#2 0b00001#5 offset
  | .bc1f offset => encodeCopBranch 1#2 0b00000#5 offset
  | .bc1t offset => encodeCopBranch 1#2 0b00001#5 offset
  | .bc2f offset => encodeCopBranch 2#2 0b00000#5 offset
  | .bc2t offset => encodeCopBranch 2#2 0b00001#5 offset
  | .bc3f offset => encodeCopBranch 3#2 0b00000#5 offset
  | .bc3t offset => encodeCopBranch 3#2 0b00001#5 offset
  | .mfc0 rt rd => encodeCopMove 0#2 0b00000#5 rt rd
  | .mtc0 rt rd => encodeCopMove 0#2 0b00100#5 rt rd
  | .mfc1 rt rd => encodeCopMove 1#2 0b00000#5 rt rd
  | .mtc1 rt rd => encodeCopMove 1#2 0b00100#5 rt rd
  | .mfc2 rt rd => encodeCopMove 2#2 0b00000#5 rt rd
  | .mtc2 rt rd => encodeCopMove 2#2 0b00100#5 rt rd
  | .mfc3 rt rd => encodeCopMove 3#2 0b00000#5 rt rd
  | .mtc3 rt rd => encodeCopMove 3#2 0b00100#5 rt rd
  | .rfe => encodeCop0Operation 0b10000#5
  | .syscall code => encodeCode code 0b001100#6
  | .brk code => encodeCode code 0b001101#6
  | .mfhi rd => encodeR 0#5 0#5 rd 0#5 0b010000#6
  | .mthi rs => encodeR rs 0#5 0#5 0#5 0b010001#6
  | .mflo rd => encodeR 0#5 0#5 rd 0#5 0b010010#6
  | .mtlo rs => encodeR rs 0#5 0#5 0#5 0b010011#6
  | .tlbr => encodeCop0Operation 0b00001#5
  | .tlbwi => encodeCop0Operation 0b00010#5
  | .tlbwr => encodeCop0Operation 0b00110#5
  | .tlbp => encodeCop0Operation 0b01000#5

end Sys2Proof
end

