-- ==== Sys2Proof/Machine/Flags.lean ====
section
/-! DEFINITION. The machine has no flags (10_state.md R34). What other machines keep in flags is here:
the overflow predicates of ADD, ADDI and SUB (00_scope.md R12), the comparisons of the SLT family
(R155 to R158) and the branch conditions (R198 to R205). -/

namespace Sys2Proof.Machine

/-- An integer is a 32-bit two's complement number. -/
def fitsSigned (n : Int) : Bool := decide (-2147483648 ≤ n) && decide (n ≤ 2147483647)

/-- `ovf_add` (R12). -/
def ovfAdd (a b : Word) : Bool := !fitsSigned (a.toInt + b.toInt)

/-- `ovf_sub` (R12). -/
def ovfSub (a b : Word) : Bool := !fitsSigned (a.toInt - b.toInt)

/-- `signed(a) < signed(b)` (R155). -/
def ltSigned (a b : Word) : Bool := decide (a.toInt < b.toInt)

/-- `unsigned(a) < unsigned(b)` (R157). -/
def ltUnsigned (a b : Word) : Bool := decide (a.toNat < b.toNat)

/-- The result word of a comparison: `0^31 || 1` or `0^32` (R155). -/
def boolWord (b : Bool) : Word := if b then 1#32 else 0#32

/-- The sign bit. -/
def signBit (a : Word) : Bool := a.getLsbD 31

/-- BLEZ (R200): the sign bit set or the value zero. -/
def isLez (a : Word) : Bool := signBit a || a == 0#32

/-- BGTZ (R201): the sign bit clear and the value not zero. -/
def isGtz (a : Word) : Bool := !signBit a && a != 0#32

end Sys2Proof.Machine
end

