-- ==== Sys2Proof/Machine/Operands.lean ====
section
/-! DEFINITION. How each operand is formed from instruction bits and register values (30_encoding.md
R97), the byte lanes of a memory word (20_memory.md R56, R57), and the bit-field helpers. -/

namespace Sys2Proof.Machine

/-- `sext_32` of a 16-bit immediate or load/store offset (R97). -/
def signExtendImm (imm : Imm) : Word := imm.signExtend 32

/-- `zext_32` of a 16-bit immediate (R97: ANDI, ORI, XORI). -/
def zeroExtendImm (imm : Imm) : Word := imm.zeroExtend 32

/-- `immediate || 0^16` (R97: LUI). -/
def upperImm (imm : Imm) : Word := imm ++ 0#16

/-- `sext_32` of a loaded byte (R111). -/
def signExtendByte (b : Byte) : Word := b.signExtend 32
/-- `zext_32` of a loaded byte (R112). -/
def zeroExtendByte (b : Byte) : Word := b.zeroExtend 32
/-- `sext_32` of a loaded halfword (R113). -/
def signExtendHalf (h : Half) : Word := h.signExtend 32
/-- `zext_32` of a loaded halfword (R114). -/
def zeroExtendHalf (h : Half) : Word := h.zeroExtend 32

/-- The effective address (R52): `sext_32(offset) + x[base]`, carry discarded. -/
def effectiveAddress (base : Word) (offset : Imm) : Word := signExtendImm offset + base

/-- The branch target (R192): the delay slot's address plus the offset times 4, sign-extended. With offset 0 that is
the delay slot itself, where R192's prose names the instruction after it: DEDUCED, unsafe (log entry 38). -/
def branchTarget (pc : Word) (offset : Imm) : Word :=
  (pc + 4#32) + (offset ++ 0#2 : BitVec 18).signExtend 32

/-- The jump target (R194): `(pc + 4)[31:28] || target || 00`. -/
def jumpTarget (pc : Word) (target : BitVec 26) : Word :=
  (pc + 4#32).extractLsb' 28 4 ++ target ++ 0#2

/-- The link value (R193): the address of the instruction after the delay slot. -/
def linkValue (pc : Word) : Word := pc + 8#32

/-- The shift amount of SLLV, SRLV and SRAV (R97): the low five bits of rs. -/
def shiftAmount (v : Word) : BitVec 5 := v.extractLsb' 0 5

/-- Shift left logical (R159). -/
def shiftLeft (v : Word) (s : BitVec 5) : Word := v <<< s.toNat
/-- Shift right logical (R160). -/
def shiftRightLogical (v : Word) (s : BitVec 5) : Word := v >>> s.toNat
/-- Shift right arithmetic (R161). -/
def shiftRightArith (v : Word) (s : BitVec 5) : Word := v.sshiftRight s.toNat

/-- Byte i of a word, i = 0 the least significant: its lane i (R56). -/
def byteOf (w : Word) (i : Nat) : Byte := w.extractLsb' (8 * i) 8

/-- `byte` of R116 and its siblings: `Addr[1:0] XOR BigEndian^2`, the lane of the addressed byte. -/
def laneIndex (bigEndian : Bool) (addr : Word) : Nat :=
  (if bigEndian then addr.extractLsb' 0 2 ^^^ 3#2 else addr.extractLsb' 0 2).toNat

/-- The offset in the aligned word of the byte in lane L (R57). -/
def laneOffset (bigEndian : Bool) (lane : Nat) : Nat := if bigEndian then 3 - lane else lane

/-- `pAddr` with its low two bits cleared (R56). -/
def alignWord (pAddr : Word) : Word := pAddr &&& 0xFFFFFFFC#32

/-- The physical address i bytes above p, modulo 2^32 (R11). -/
def physAt (p : Word) (i : Nat) : Nat := (p + BitVec.ofNat 32 i).toNat

/-- The value of LWL (R116): `mem[7+8*byte : 0] || old[23-8*byte : 0]`. -/
def mergeLeft (lane : Nat) (mem old : Word) : Word :=
  match lane with
  | 0 => mem.extractLsb' 0 8 ++ old.extractLsb' 0 24
  | 1 => mem.extractLsb' 0 16 ++ old.extractLsb' 0 16
  | 2 => mem.extractLsb' 0 24 ++ old.extractLsb' 0 8
  | _ => mem

/-- The value of LWR (R117): `old[31 : 32-8*byte] || mem[31 : 8*byte]`. -/
def mergeRight (lane : Nat) (mem old : Word) : Word :=
  match lane with
  | 0 => mem
  | 1 => old.extractLsb' 24 8 ++ mem.extractLsb' 8 24
  | 2 => old.extractLsb' 16 16 ++ mem.extractLsb' 16 16
  | _ => old.extractLsb' 8 24 ++ mem.extractLsb' 24 8

/-- The data word of SWL (R121): `0^(24-8*byte) || rt[31 : 24-8*byte]`. -/
def storeLeftData (lane : Nat) (v : Word) : Word := v >>> (24 - 8 * lane)

/-- The data word of SWR (R123): `rt[31-8*byte : 0] || 0^(8*byte)`. -/
def storeRightData (lane : Nat) (v : Word) : Word := v <<< (8 * lane)

end Sys2Proof.Machine
end

