-- ==== Sys2Proof/Machine/State.lean ====
section
/-! DEFINITION. The state of the machine (10_state.md R20), the reasons it can stop, and the state
right after reset (R37, R330). -/

namespace Sys2Proof.Machine

/-- Memory: the bytes that do not read as `Memory.unwritten`, by physical address, addresses strictly
rising (20_memory.md R56: `M[p]`). Every content of the 2^32 bytes has exactly one such list. -/
abbrev Memory := List Host.Cell

/-- What an address that the list does not hold reads as. The spec gives memory no content after reset
(R37: "the platform's contents"). DESIGN CHOICE, unsafe (log entry 4). -/
def Memory.unwritten : Byte := 0#8

/-- One sample of the input pins, in force during one step. -/
structure Pins where
  /-- `IRQ(t)[5:0]`, the six interrupt request lines (R296) -/
  irq : BitVec 6
  /-- `CPC(t)[3:0]`, the four coprocessor condition lines (R27) -/
  cpc : BitVec 4
  /-- the reset input (R331) -/
  reset : Bool
deriving DecidableEq, Repr

/-- `mf_hi_age` or `mf_lo_age` with the rd of that MFHI or MFLO (R33): 0 if it was the previous
instruction, 1 if it was the one before. -/
structure MfRecord where
  age : Fin 2
  rd : Reg
deriving DecidableEq, Repr

/-- `mtc_shadow` (R20, R247): the register MTC0 wrote in the previous instruction and its value before.
Only SR and Cause can be written (R248). -/
inductive MtcShadow where
  | sr (old : Word)
  | cause (old : Word)
deriving DecidableEq, Repr

/-- The exceptions of 60_exceptions.md R283 with what is recorded besides the code. -/
inductive Exc where
  /-- interrupt (R296) -/
  | int
  /-- Address Error on a load or an instruction fetch (R285) -/
  | adel (addr : Word)
  /-- Address Error on a store (R285) -/
  | ades (addr : Word)
  /-- Bus Error on an instruction fetch (R286) -/
  | ibe
  /-- Bus Error on a data load or store (R286) -/
  | dbe
  /-- System Call (R292) -/
  | sys
  /-- Breakpoint (R292) -/
  | bp
  /-- Reserved Instruction (R287) -/
  | ri
  /-- Coprocessor Unusable (R288) -/
  | cpu (z : CopUnit)
  /-- Overflow (R289) -/
  | ov
deriving DecidableEq, Repr

/-- The machine (R20), its configuration (R6), its inputs and the model's free-value counter. -/
structure State where
  /-- the parameters of R6; no step changes them -/
  cfg : Config
  /-- GPR[0..31] (R21); read and written only through `State.gprRead` and `State.setReg` -/
  gpr : Vector Word 32
  /-- the address of the instruction being executed (R22) -/
  pc : Word
  /-- the address of the instruction to execute after it (R23) -/
  npc : Word
  /-- the current instruction immediately follows a jump or branch (R23) -/
  inDelaySlot : Bool
  /-- HI (R24) -/
  hi : Word
  /-- LO (R24) -/
  lo : Word
  /-- the Status Register (R28) -/
  sr : Word
  /-- the stored bits of Cause: BD 31, CE 29:28, IP[1:0] 9:8, ExcCode 6:2 (R291) -/
  cause : Word
  /-- EPC (R29) -/
  epc : Word
  /-- BadVAddr (R285) -/
  badVAddr : Word
  /-- every CPR[z, x] without a field of its own, at entry 32z + x (R25, R30); only reset writes them (log entry 7) -/
  cpr : Vector Word 128
  /-- memory (R50, R56) -/
  mem : Memory
  /-- the physical word addresses stored to since reset, strictly rising (R69) -/
  stored : List Nat
  /-- `load_pending` (R32) -/
  loadPending : Option (Reg × Word)
  /-- `mf_hi_age` (R33) -/
  mfHi : Option MfRecord
  /-- `mf_lo_age` (R33) -/
  mfLo : Option MfRecord
  /-- `md_fresh` (R33) -/
  mdFresh : Bool
  /-- `cpc_prev` (R27) -/
  cpcPrev : BitVec 4
  /-- `mtc_shadow` (R247) -/
  mtcShadow : Option MtcShadow
  /-- the instruction executed before this one was a load or store (R348) -/
  lastWasMem : Bool
  /-- the input pins during this step -/
  pins : Pins
  /-- the samples of the following steps, next first; after the last one the pins hold (log entry 10) -/
  nextPins : List Pins
  /-- the MODEL's counter of free values: which values of `Config.freeWord` this step draws (log entry 9) -/
  freeTick : Nat
deriving DecidableEq, Repr

/-- The faults. -/
inductive Fault where
  /-- `State.probe` and `State.fetch` raise it: the access at this physical address is to one the
  platform does not admit, and the bus answers no error. R54: "otherwise not given a meaning".
  Safe: the machine stops where hardware would go on in some unstated way. -/
  | unmapped (kind : AccessKind) (pAddr : Word)
deriving DecidableEq, Repr

/-- The refusals. All are safe: the model stops where hardware goes on in a way the spec does not give. -/
inductive Refusal where
  /-- an arm of `exec` without a meaning. No arm is. -/
  | notModelled (mnemonic : String)
  /-- every jump and branch: it stands in a delay slot (R340: "not detected and is undefined") -/
  | branchInDelaySlot
  /-- JALR with rs = rd (R197: "the result of executing such an instruction is undefined") -/
  | jalrSameRegister
  /-- BLTZAL and BGEZAL with rs = 31 (R206: "This spec does not give the encoding a meaning") -/
  | linkBranchOnLinkRegister
  /-- MULT, MULTU, DIV, DIVU, MTHI, MTLO within two instructions after MFHI or MFLO (R344) -/
  | hiLoWriteTooSoon
  /-- RFE immediately after a load or store (R348: "unspecified") -/
  | memoryBeforeRfe
  /-- `State.fetch`: the instruction word has been stored to since reset (R69, R351) -/
  | fetchOfStoredWord
  /-- `step`: the outcome depends on whether the MTC0 just executed is visible yet (R247, R349) -/
  | mtcVisibility
  /-- a word of an enabled coprocessor z = 1, 2 or 3 that is no branch of a valid unit, MFCz and MTCz among them
  (R224: "undefined results") -/
  | coprocessorUndefined (z : CopUnit)
  /-- MTC0 to a register that the spec leaves unmodelled (R30, R248) -/
  | cp0WriteUnmodelled (rd : CopReg)
  /-- a constant-zero field is not zero and `MBZ_POLICY` is `refuse` (R94) -/
  | mustBeZero
deriving DecidableEq, Repr

/-- The machine right after reset (R37, R330): the parameters at the defaults of R6, `pc` at `RESET_PC`,
kernel mode, interrupts off, SR.BEV = 1, the bookkeeping of R20 cleared. Every register that R37 calls
unspecified holds 0: DESIGN CHOICE, unsafe (log entries 5 to 8). Memory lists nothing (log entry 4). -/
def State.reset : State where
  cfg := Config.default
  gpr := Vector.replicate 32 0#32
  pc := 0xBFC00000#32
  npc := 0xBFC00004#32
  inDelaySlot := false
  hi := 0#32
  lo := 0#32
  sr := 0x00400000#32
  cause := 0#32
  epc := 0#32
  badVAddr := 0#32
  cpr := Vector.replicate 128 0#32
  mem := []
  stored := []
  loadPending := none
  mfHi := none
  mfLo := none
  mdFresh := false
  cpcPrev := 0#4
  mtcShadow := none
  lastWasMem := false
  pins := { irq := 0#6, cpc := 0#4, reset := false }
  nextPins := []
  freeTick := 0

end Sys2Proof.Machine
end

