-- ==== Sys2Proof/Machine/Ops.lean ====
section
/-! DEFINITION. The named operations over memory, registers and the status register, the completion of
an instruction, taking an exception and returning from one, the instruction fetch, and reset. -/

namespace Sys2Proof.Machine

/-- What a meaning answers. -/
abbrev Result := Host.Outcome State Fault Refusal

/-! ### Memory (20_memory.md) -/

/-- `M[p]` (R56). -/
def Memory.read : Memory → Nat → Byte
  | [], _ => Memory.unwritten
  | (a, b) :: m, p => if p < a then Memory.unwritten else if p = a then b else Memory.read m p

/-- `M[p] <- v`, keeping the canonical form: no entry reads as an unlisted address does. -/
def Memory.write : Memory → Nat → Byte → Memory
  | [], p, v => if v = Memory.unwritten then [] else [(p, v)]
  | (a, b) :: m, p, v =>
    if p < a then (if v = Memory.unwritten then (a, b) :: m else (p, v) :: (a, b) :: m)
    else if p = a then (if v = Memory.unwritten then m else (a, v) :: m)
    else (a, b) :: Memory.write m p v

/-- The entries stand at addresses of the 32-bit space (R50) from `lo` on, strictly rising, and none
reads as an unlisted address does. -/
def Memory.wfFrom : Nat → Memory → Bool
  | _, [] => true
  | lo, (a, b) :: m =>
    decide (lo ≤ a) && decide (a < 4294967296) && decide (b ≠ Memory.unwritten) && Memory.wfFrom (a + 1) m

/-- The canonical form of memory. -/
def Memory.wf (m : Memory) : Bool := Memory.wfFrom 0 m

/-- Adds an address to a strictly rising list. -/
def insertAddr (p : Nat) : List Nat → List Nat
  | [] => [p]
  | a :: l => if p < a then p :: a :: l else if p = a then a :: l else a :: insertAddr p l

/-- The word address of a byte address. -/
def wordAddr (p : Nat) : Nat := p / 4 * 4

/-- Stores one byte and remembers its word as stored to (R57, R69). -/
def State.storeByte (s : State) (p : Nat) (b : Byte) : State :=
  { s with mem := Memory.write s.mem p b, stored := insertAddr (wordAddr p) s.stored }

/-- Stores bytes at physical addresses, first to last. -/
def State.storeBytes (s : State) : List Host.Cell → State
  | [] => s
  | (p, b) :: cells => (s.storeByte p b).storeBytes cells

/-- `b_0 || b_1` or `b_1 || b_0` by the byte order (R58). -/
def Memory.readHalf (m : Memory) (bigEndian : Bool) (p : Word) : Half :=
  let b0 := Memory.read m (physAt p 0)
  let b1 := Memory.read m (physAt p 1)
  if bigEndian then b0 ++ b1 else b1 ++ b0

/-- `b_0 || b_1 || b_2 || b_3` or the reverse by the byte order (R56, R58). -/
def Memory.readWord (m : Memory) (bigEndian : Bool) (p : Word) : Word :=
  let b0 := Memory.read m (physAt p 0)
  let b1 := Memory.read m (physAt p 1)
  let b2 := Memory.read m (physAt p 2)
  let b3 := Memory.read m (physAt p 3)
  if bigEndian then b0 ++ b1 ++ b2 ++ b3 else b3 ++ b2 ++ b1 ++ b0

/-- The physical addresses of n bytes from p on. -/
def spanBytes (p : Word) (n : Nat) : List Nat := (List.range n).map (physAt p)

/-- The bytes `MemWrite(addr, n, v)` stores (R59): byte i of the field is byte n-1-i of v in a
big-endian machine and byte i in a little-endian one. -/
def spanCells (bigEndian : Bool) (p : Word) (n : Nat) (v : Word) : List Host.Cell :=
  (List.range n).map fun i => (physAt p i, byteOf v (if bigEndian then n - 1 - i else i))

/-- The lanes lo to hi of a word. -/
def lanes (lo hi : Nat) : List Nat := (List.range 4).filter fun l => decide (lo ≤ l) && decide (l ≤ hi)

/-- The bytes `StoreBytes(Addr, hi, lo, data)` stores, `p` the mapped address (R57). -/
def laneCells (bigEndian : Bool) (p : Word) (lo hi : Nat) (data : Word) : List Host.Cell :=
  (lanes lo hi).map fun l => (physAt (alignWord p) (laneOffset bigEndian l), byteOf data l)

/-- The physical addresses of the bytes in lanes lo to hi (R60, R122). -/
def laneBytes (bigEndian : Bool) (p : Word) (lo hi : Nat) : List Nat :=
  (lanes lo hi).map fun l => physAt (alignWord p) (laneOffset bigEndian l)

/-! ### Address mapping and the platform -/

/-- `BIU(Addr)` (R53). -/
def biu (c : Config) (addr : Word) : Word :=
  if c.kseg0Base.toNat ≤ addr.toNat ∧ addr.toNat < c.kseg0Base.toNat + c.ksegSize.toNat then
    addr - c.kseg0Base
  else if c.kseg1Base.toNat ≤ addr.toNat ∧ addr.toNat < c.kseg1Base.toNat + c.ksegSize.toNat then
    addr - c.kseg1Base
  else addr

/-- The range concerns this kind of access to this byte. -/
def regionCovers (k : AccessKind) (p : Nat) (r : Region) : Bool :=
  (match k with
    | .fetch => r.forFetch
    | .load => r.forLoad
    | .store => r.forStore)
  && decide (r.base ≤ p) && decide (p < r.base + r.size)

/-- `Mapped(pAddr, n, kind)` (R54), of one byte. -/
def isMapped (c : Config) (k : AccessKind) (p : Nat) : Bool := c.mapped.any (regionCovers k p)

/-- `BusError(pAddr, kind)` (R65). -/
def isBusError (c : Config) (k : AccessKind) (p : Word) : Bool := c.busErrors.any (regionCovers k p.toNat)

/-! ### The status and cause registers -/

/-- SR as this step sees it (R28): under `MTC_VISIBILITY = after_one` the instruction after an MTC0 to
SR still sees the old value (R247). -/
def State.srView (s : State) : Word :=
  match s.cfg.mtcVisibility, s.mtcShadow with
  | .afterOne, some (.sr old) => old
  | _, _ => s.sr

/-- Cause's stored bits as this step sees them (R247, R291). -/
def State.causeView (s : State) : Word :=
  match s.cfg.mtcVisibility, s.mtcShadow with
  | .afterOne, some (.cause old) => old
  | _, _ => s.cause

/-- `user` (R11, R28): SR.KUc = 1. -/
def State.user (s : State) : Bool := s.srView.getLsbD 1

/-- SR.IEc (R28). -/
def State.interruptsOn (s : State) : Bool := s.srView.getLsbD 0

/-- `Cu[z]` (R28): SR bits 31:28. -/
def State.cu (s : State) (z : CopUnit) : Bool := s.srView.getLsbD (28 + z.toNat)

/-- `cp0_open` (R240). -/
def State.cp0Open (s : State) : Bool := !s.user || s.cu 0#2

/-- Cause.IP[7:0] (R291, R296): the six lines as they are now, the two software bits as stored. -/
def State.pendingLines (s : State) : BitVec 8 := s.pins.irq ++ s.causeView.extractLsb' 8 2

/-- R296: an interrupt is to be taken now. -/
def State.interruptNow (s : State) : Bool :=
  s.interruptsOn && (s.pendingLines &&& s.srView.extractLsb' 8 8) != 0#8

/-- `EXC_VECTOR(SR)` (R290), by SR.BEV, bit 22. -/
def State.excVectorNow (s : State) : Word :=
  if s.srView.getLsbD 22 then s.cfg.excVectorBoot else s.cfg.excVector

/-! ### Free values -/

/-- The k-th undefined value of this step, `UNDEF32` (R11; log entry 9). -/
def State.free (s : State) (k : Nat) : Word := Config.freeWord s.freeTick k

/-- the register read as rs or base -/
def slotRs : Nat := 0
/-- the register read as rt -/
def slotRt : Nat := 1
/-- LO -/
def slotLo : Nat := 2
/-- HI -/
def slotHi : Nat := 3
/-- a coprocessor register -/
def slotCop : Nat := 4
/-- from here on, the registers that reset leaves unspecified -/
def slotReset : Nat := 16

/-! ### General registers (R21, R32) -/

/-- The contents of a general register; register 0 is zero (R21). -/
def State.gprRead (s : State) (r : Reg) : Word := if r = 0#5 then 0#32 else s.gpr[r.toNat]'(r.isLt)

/-- `x[i] <- v` (R11): a write to register 0 is discarded. -/
def State.setReg (s : State) (r : Reg) (v : Word) : State :=
  if r = 0#5 then s else { s with gpr := s.gpr.set r.toNat v r.isLt }

/-- A load is pending for the register (R32). -/
def State.isPending (s : State) (r : Reg) : Bool :=
  match s.loadPending with
  | some (q, _) => q == r
  | none => false

/-- `x[i]` (R11): an undefined value while a load is pending for the register (R32, R341). `k` names the
read, so that two reads of one register need not agree. -/
def State.regRead (s : State) (k : Nat) (r : Reg) : Word :=
  if r = 0#5 then 0#32 else if s.isPending r then s.free k else s.gprRead r

/-- `x[rs]`, `x[base]` -/
def State.readRs (s : State) (r : Reg) : Word := s.regRead slotRs r

/-- `x[rt]` -/
def State.readRt (s : State) (r : Reg) : Word := s.regRead slotRt r

/-- The merge operand `old` of LWL and LWR (R32, R116): the pending value is bypassed. -/
def State.mergeOperand (s : State) (rt : Reg) : Word :=
  if rt = 0#5 then 0#32
  else match s.loadPending with
    | some (q, v) => if q = rt then v else s.gprRead rt
    | none => s.gprRead rt

/-- Step 7 of R35: the pending load lands. -/
def State.land (s : State) : State :=
  match s.loadPending with
  | some (r, v) => { s.setReg r v with loadPending := none }
  | none => s

/-- An event before the instruction at `pc` (R35 steps 2 to 4): the pending load lands, and the next
instruction executed is still in its delay (R32; log entry 13). -/
def State.landEarly (s : State) : State :=
  match s.loadPending with
  | some (r, v) => s.setReg r v
  | none => s

/-- Step 7 of R35 for an instruction that sets `load_pending` for rt: the older load of rt does not land. -/
def State.dropPending (s : State) (rt : Reg) : State :=
  if s.isPending rt then { s with loadPending := none } else s

/-- `x[rt] <-delayed- v` (R124); nothing is pending for register 0 (R32). -/
def State.setPending (s : State) (rt : Reg) (v : Word) : State :=
  { s with loadPending := if rt = 0#5 then none else some (rt, v) }

/-! ### Completing an instruction (R35 steps 7 and 8) -/

/-- One more instruction has been executed since the MFHI or MFLO (R33). -/
def ageMf : Option MfRecord → Option MfRecord
  | some r => if r.age = 0 then some { r with age := 1 } else none
  | none => none

/-- The pending load lands, `pc` moves to `npc`, `npc` to the given address, and the bookkeeping ages
(R23, R33, R247, R348). The register writes of the instruction itself come after it, so they win (R32). -/
def State.retire (s : State) (npc' : Word) (slot mem : Bool) : State :=
  { s.land with
    pc := s.npc
    npc := npc'
    inDelaySlot := slot
    mfHi := ageMf s.mfHi
    mfLo := ageMf s.mfLo
    mtcShadow := none
    lastWasMem := mem }

/-- Completion of an instruction that is no jump, branch, load or store (R23). -/
def State.retireSeq (s : State) : State := s.retire (s.npc + 4#32) false false

/-- Completion of a load or store (R23, R348). -/
def State.retireMem (s : State) : State := s.retire (s.npc + 4#32) false true

/-- `branch_to(target)` where taken (R11, R23). -/
def State.retireBranch (s : State) (taken : Bool) (target : Word) : State :=
  s.retire (if taken then target else s.npc + 4#32) true false

/-- Completion of a load (R124). -/
def State.retireLoad (s : State) (rt : Reg) (v : Word) : State :=
  ((s.dropPending rt).retireMem).setPending rt v

/-- Completion of a coprocessor move to rt, delayed as a load is (R227, R342). -/
def State.retireMove (s : State) (rt : Reg) (v : Word) : State :=
  ((s.dropPending rt).retireSeq).setPending rt v

/-- Completion of an instruction whose one result is a general register (R140). -/
def State.retireReg (s : State) (rd : Reg) (v : Word) : State := s.retireSeq.setReg rd v

/-! ### Exceptions (60_exceptions.md) -/

/-- `EXC_CODE(e)` (R283). -/
def excCode (c : ExcCodes) : Exc → BitVec 5
  | .int => c.int
  | .adel _ => c.adel
  | .ades _ => c.ades
  | .ibe => c.ibe
  | .dbe => c.dbe
  | .sys => c.sys
  | .bp => c.bp
  | .ri => c.ri
  | .cpu _ => c.cpu
  | .ov => c.ov

/-- Cause after entry (R290 steps 1 and 2): BD, ExcCode, and CE for Coprocessor Unusable only. -/
def causeAfter (cause : Word) (bd : Bool) (code : BitVec 5) (e : Exc) : Word :=
  let ce : BitVec 2 := match e with
    | .cpu z => z
    | _ => cause.extractLsb' 28 2
  BitVec.ofBool bd ++ cause.extractLsb' 30 1 ++ ce ++ cause.extractLsb' 7 21 ++ code ++ cause.extractLsb' 0 2

/-- BadVAddr after entry (R290 step 2). -/
def badVAddrAfter (old : Word) : Exc → Word
  | .adel a => a
  | .ades a => a
  | .int => old
  | .ibe => old
  | .dbe => old
  | .sys => old
  | .bp => old
  | .ri => old
  | .cpu _ => old
  | .ov => old

/-- The KU/IE stack pushed (R290 step 3): `SR[5:0] <- SR[3:0] || 00`. `view` supplies the pairs and
`sr` the bits above them; they differ only in the step after an MTC0 (log entry 16). -/
def pushStatus (sr view : Word) : Word := sr.extractLsb' 6 26 ++ view.extractLsb' 0 4 ++ 0#2

/-- The KU/IE stack popped by RFE (R243): `SR <- SR[31:4] || SR[5:2]`. -/
def popStatus (sr view : Word) : Word := sr.extractLsb' 4 28 ++ view.extractLsb' 2 4

/-- `TakeException(e)` (R290). DEDUCED, unsafe: step 1 is taken for every e, so EPC is `pc - 4` for a failed fetch in a
delay slot too, of which R285 says that it is the faulting `pc` itself (log entry 40). -/
def takeException (e : Exc) (s : State) : State :=
  { s with
    epc := if s.inDelaySlot then s.pc - 4#32 else s.pc
    cause := causeAfter s.cause s.inDelaySlot (excCode s.cfg.excCodes e) e
    badVAddr := badVAddrAfter s.badVAddr e
    sr := pushStatus s.sr s.srView
    pc := s.excVectorNow
    npc := s.excVectorNow + 4#32
    inDelaySlot := false
    mtcShadow := none }

/-- The instruction being executed raises e (R35 step 6): the pending load lands, then the exception is
taken. -/
def raise (e : Exc) (s : State) : Result := .next (takeException e s.land)

/-- RFE's effect on SR (R243). -/
def State.returnStatus (s : State) : State := { s with sr := popStatus s.sr s.srView }

/-! ### Data access (R110) -/

/-- The effective address of a load or store (R52, R110). -/
def State.dataAddr (s : State) (base : Reg) (offset : Imm) : Word := effectiveAddress (s.readRs base) offset

/-- Its physical address (R53). -/
def State.dataPhys (s : State) (base : Reg) (offset : Imm) : Word := biu s.cfg (s.dataAddr base offset)

/-- A halfword access is misaligned (R61): `Addr[0] != 0`. -/
def oddAddress (addr : Word) : Bool := addr.getLsbD 0

/-- A word access is misaligned (R61): `Addr[1:0] != 00`. -/
def notWordAligned (addr : Word) : Bool := addr.extractLsb' 0 2 != 0#2

/-- The outcome of the checks of a data access. -/
inductive Probe where
  /-- the access is made -/
  | ok
  /-- the exception is taken and the access is not made -/
  | raise (e : Exc)
  /-- the platform does not admit the address (R54) -/
  | fault (f : Fault)
deriving DecidableEq, Repr

/-- The checks of a data access in the order of R110: alignment and permission (R61, R64), mapping (R53),
bus error (R65), the platform's map (R54). `bytes` are the physical addresses of the bytes accessed. -/
def State.probe (s : State) (k : AccessKind) (misaligned : Bool) (addr : Word) (bytes : List Nat) : Probe :=
  if misaligned || (s.user && decide (s.cfg.userLimit.toNat ≤ addr.toNat)) then
    .raise (match k with
      | .store => .ades addr
      | .load => .adel addr
      | .fetch => .adel addr)
  else if isBusError s.cfg k (biu s.cfg addr) then .raise .dbe
  else if bytes.all (isMapped s.cfg k) then .ok
  else .fault (.unmapped k (biu s.cfg addr))

/-- A load of `value` into rt (R110, R124). -/
def loadAccess (misaligned : Bool) (addr : Word) (bytes : List Nat) (rt : Reg) (value : Word) (s : State) : Result :=
  match s.probe .load misaligned addr bytes with
  | .ok => .next (s.retireLoad rt value)
  | .raise e => raise e s
  | .fault f => .fault f

/-- A store of bytes at physical addresses (R110, R125); one that raises an exception leaves memory as it was, on a
Bus Error too: DEDUCED, unsafe (log entry 39). -/
def storeAccess (misaligned : Bool) (addr : Word) (cells : List Host.Cell) (s : State) : Result :=
  match s.probe .store misaligned addr (cells.map Prod.fst) with
  | .ok => .next (s.storeBytes cells).retireMem
  | .raise e => raise e s
  | .fault f => .fault f

/-! ### Coprocessor 0 registers (R248) -/

/-- The bits of Cause that are stored (R291): BD, CE, IP[1:0], ExcCode. -/
def causeStored : Word := 0xB000037C#32

/-- What MFC0 reads from Cause (R248, R291): BD, CE and ExcCode as stored, IP as it is now, the other bits
undefined (`u`). -/
def State.causeRead (s : State) (u : Word) : Word :=
  s.causeView.extractLsb' 31 1 ++ u.extractLsb' 30 1 ++ s.causeView.extractLsb' 28 2 ++ u.extractLsb' 16 12
    ++ s.pendingLines ++ u.extractLsb' 7 1 ++ s.causeView.extractLsb' 2 5 ++ u.extractLsb' 0 2

/-- `CPR[0, rd]` as MFC0 reads it (R241, R248): PRId and every register the spec leaves unmodelled give an
undefined value. -/
def State.cp0Read (s : State) (rd : CopReg) : Word :=
  if rd = s.cfg.cp0Map.sr then s.srView
  else if rd = s.cfg.cp0Map.epc then s.epc
  else if rd = s.cfg.cp0Map.cause then s.causeRead (s.free slotCop)
  else if rd = s.cfg.cp0Map.badVAddr then s.badVAddr
  else s.free slotCop

/-- Cause after MTC0 (R248): only IP[1:0], bits 9:8, are written. -/
def causeWrite (cause data : Word) : Word :=
  cause.extractLsb' 10 22 ++ data.extractLsb' 8 2 ++ cause.extractLsb' 0 8

/-! ### Instruction fetch (R62 to R65, R69) -/

/-- The outcome of a fetch. -/
inductive Fetched where
  | word (w : Word)
  | raise (e : Exc)
  | fault (f : Fault)
  | refused (r : Refusal)
deriving DecidableEq, Repr

/-- The fetch of the instruction at `pc`, its checks in the order of R293 and R110: alignment and permission
(R63, R64), bus error (R65), the platform's map (R54), a word stored to since reset (R69). -/
def State.fetch (s : State) : Fetched :=
  let p := alignWord (biu s.cfg s.pc)
  if notWordAligned s.pc = true ∨ (s.user = true ∧ s.cfg.userLimit.toNat ≤ s.pc.toNat) then .raise (.adel s.pc)
  else if isBusError s.cfg .fetch (biu s.cfg s.pc) then .raise .ibe
  else if !(spanBytes p 4).all (isMapped s.cfg .fetch) then .fault (.unmapped .fetch (biu s.cfg s.pc))
  else if s.stored.contains p.toNat then .refused .fetchOfStoredWord
  else .word (Memory.readWord s.mem s.cfg.bigEndian p)

/-- An event taken before the instruction at `pc` executes: an interrupt or a failed fetch (R35 steps 2 to 4; EPC in a
delay slot: log entry 40). -/
def preempt (e : Exc) (s : State) : State := takeException e s.landEarly

/-! ### Inputs and reset -/

/-- The next sample of the pins (log entry 10) and of the free values. -/
def State.nextSample (s : State) : State :=
  match s.nextPins with
  | [] => { s with freeTick := s.freeTick + 1 }
  | p :: ps => { s with pins := p, nextPins := ps, freeTick := s.freeTick + 1 }

/-- The end of a step (R35 step 9): `cpc_prev` takes the lines of this step, and the next sample comes. -/
def State.endStep (s : State) : State := { s with cpcPrev := s.pins.cpc }.nextSample

/-- SR after reset (R37): KUc = 0, IEc = 0, BEV = 1, the other bits unspecified (`u`). -/
def resetStatus (u : Word) : Word := (u &&& 0xFFFFFFFC#32) ||| 0x00400000#32

/-- Reset applied to a running machine (R331): the whole state becomes that of R330, memory stays, and
what R37 leaves unspecified, `cpc_prev` among it, becomes undefined (log entry 11). -/
def State.applyReset (s : State) : State :=
  { s with
    gpr := Vector.ofFn fun i : Fin 32 => if i.val = 0 then 0#32 else s.free (slotReset + i.val)
    pc := s.cfg.resetPc
    npc := s.cfg.resetPc + 4#32
    inDelaySlot := false
    hi := s.free (slotReset + 32)
    lo := s.free (slotReset + 33)
    sr := resetStatus (s.free (slotReset + 34))
    cause := s.free (slotReset + 35) &&& causeStored
    epc := s.free (slotReset + 36)
    badVAddr := s.free (slotReset + 37)
    cpr := Vector.ofFn fun i : Fin 128 => s.free (slotReset + 38 + i.val)
    stored := []
    loadPending := none
    mfHi := none
    mfLo := none
    mdFresh := false
    cpcPrev := (s.free (slotReset + 166)).extractLsb' 0 4
    mtcShadow := none
    lastWasMem := false }

end Sys2Proof.Machine
end

