-- ==== Sys2Proof/Machine/Computational.lean ====
section
/-! DEFINITION. The computational instructions (41_computational.md), but for multiply and divide. -/

namespace Sys2Proof.Machine

/-- An addition or subtraction that can overflow (R141, R142, R145, R289): the exception, with the
destination unwritten, or the result. -/
def overflowOr (ovf : Bool) (rd : Reg) (v : Word) (s : State) : Result :=
  if ovf then raise .ov s else .next (s.retireReg rd v)

/-- ADDI (R142). -/
def execAddi (rs rt : Reg) (imm : Imm) (s : State) : Result :=
  let imm32 := signExtendImm imm
  overflowOr (ovfAdd (s.readRs rs) imm32) rt (s.readRs rs + imm32) s

/-- ADDIU (R144). -/
def execAddiu (rs rt : Reg) (imm : Imm) (s : State) : Result :=
  .next (s.retireReg rt (s.readRs rs + signExtendImm imm))

/-- SLTI (R156). -/
def execSlti (rs rt : Reg) (imm : Imm) (s : State) : Result :=
  .next (s.retireReg rt (boolWord (ltSigned (s.readRs rs) (signExtendImm imm))))

/-- SLTIU (R158): the immediate is sign-extended, the comparison unsigned. -/
def execSltiu (rs rt : Reg) (imm : Imm) (s : State) : Result :=
  .next (s.retireReg rt (boolWord (ltUnsigned (s.readRs rs) (signExtendImm imm))))

/-- ANDI (R148). -/
def execAndi (rs rt : Reg) (imm : Imm) (s : State) : Result :=
  .next (s.retireReg rt (s.readRs rs &&& zeroExtendImm imm))

/-- ORI (R150). -/
def execOri (rs rt : Reg) (imm : Imm) (s : State) : Result :=
  .next (s.retireReg rt (s.readRs rs ||| zeroExtendImm imm))

/-- XORI (R152). -/
def execXori (rs rt : Reg) (imm : Imm) (s : State) : Result :=
  .next (s.retireReg rt (s.readRs rs ^^^ zeroExtendImm imm))

/-- LUI (R154). -/
def execLui (rt : Reg) (imm : Imm) (s : State) : Result :=
  .next (s.retireReg rt (upperImm imm))

/-- ADD (R141). -/
def execAdd (rs rt rd : Reg) (s : State) : Result :=
  overflowOr (ovfAdd (s.readRs rs) (s.readRt rt)) rd (s.readRs rs + s.readRt rt) s

/-- ADDU (R143). -/
def execAddu (rs rt rd : Reg) (s : State) : Result :=
  .next (s.retireReg rd (s.readRs rs + s.readRt rt))

/-- SUB (R145). -/
def execSub (rs rt rd : Reg) (s : State) : Result :=
  overflowOr (ovfSub (s.readRs rs) (s.readRt rt)) rd (s.readRs rs - s.readRt rt) s

/-- SUBU (R146). -/
def execSubu (rs rt rd : Reg) (s : State) : Result :=
  .next (s.retireReg rd (s.readRs rs - s.readRt rt))

/-- AND (R147). -/
def execAnd (rs rt rd : Reg) (s : State) : Result :=
  .next (s.retireReg rd (s.readRs rs &&& s.readRt rt))

/-- OR (R149). -/
def execOr (rs rt rd : Reg) (s : State) : Result :=
  .next (s.retireReg rd (s.readRs rs ||| s.readRt rt))

/-- XOR (R151). -/
def execXor (rs rt rd : Reg) (s : State) : Result :=
  .next (s.retireReg rd (s.readRs rs ^^^ s.readRt rt))

/-- NOR (R153). -/
def execNor (rs rt rd : Reg) (s : State) : Result :=
  .next (s.retireReg rd (~~~(s.readRs rs ||| s.readRt rt)))

/-- SLT (R155). -/
def execSlt (rs rt rd : Reg) (s : State) : Result :=
  .next (s.retireReg rd (boolWord (ltSigned (s.readRs rs) (s.readRt rt))))

/-- SLTU (R157). -/
def execSltu (rs rt rd : Reg) (s : State) : Result :=
  .next (s.retireReg rd (boolWord (ltUnsigned (s.readRs rs) (s.readRt rt))))

/-- SLLV (R162). -/
def execSllv (rs rt rd : Reg) (s : State) : Result :=
  .next (s.retireReg rd (shiftLeft (s.readRt rt) (shiftAmount (s.readRs rs))))

/-- SRLV (R163). -/
def execSrlv (rs rt rd : Reg) (s : State) : Result :=
  .next (s.retireReg rd (shiftRightLogical (s.readRt rt) (shiftAmount (s.readRs rs))))

/-- SRAV (R164). -/
def execSrav (rs rt rd : Reg) (s : State) : Result :=
  .next (s.retireReg rd (shiftRightArith (s.readRt rt) (shiftAmount (s.readRs rs))))

/-- SLL (R159). -/
def execSll (rt rd : Reg) (shamt : BitVec 5) (s : State) : Result :=
  .next (s.retireReg rd (shiftLeft (s.readRt rt) shamt))

/-- SRL (R160). -/
def execSrl (rt rd : Reg) (shamt : BitVec 5) (s : State) : Result :=
  .next (s.retireReg rd (shiftRightLogical (s.readRt rt) shamt))

/-- SRA (R161). -/
def execSra (rt rd : Reg) (shamt : BitVec 5) (s : State) : Result :=
  .next (s.retireReg rd (shiftRightArith (s.readRt rt) shamt))

end Sys2Proof.Machine
end

