-- ==== Sys2Proof/Machine/JumpBranch.lean ====
section
/-! DEFINITION. Jumps and branches (43_jump_branch.md). -/

namespace Sys2Proof.Machine

/-- A jump or branch completes as `t` says, unless it stands in a delay slot (R191, R340). -/
def transfer (s t : State) : Result :=
  if s.inDelaySlot then .refused .branchInDelaySlot else .next t

/-- A conditional branch (R192). -/
def branchIf (cond : Bool) (offset : Imm) (s : State) : Result :=
  transfer s (s.retireBranch cond (branchTarget s.pc offset))

/-- A conditional branch on rs that links, taken or not (R193, R204); rs may not be r31 (R206). -/
def branchLinkIf (rs : Reg) (cond : Bool) (offset : Imm) (s : State) : Result :=
  if s.inDelaySlot then .refused .branchInDelaySlot
  else if rs = 31#5 then .refused .linkBranchOnLinkRegister
  else .next ((s.retireBranch cond (branchTarget s.pc offset)).setReg 31#5 (linkValue s.pc))

/-- J (R194). -/
def execJ (target : BitVec 26) (s : State) : Result :=
  transfer s (s.retireBranch true (jumpTarget s.pc target))

/-- JAL (R195). -/
def execJal (target : BitVec 26) (s : State) : Result :=
  transfer s ((s.retireBranch true (jumpTarget s.pc target)).setReg 31#5 (linkValue s.pc))

/-- JR (R196). -/
def execJr (rs : Reg) (s : State) : Result := transfer s (s.retireBranch true (s.readRs rs))

/-- JALR (R197). -/
def execJalr (rs rd : Reg) (s : State) : Result :=
  if s.inDelaySlot then .refused .branchInDelaySlot
  else if rs = rd then .refused .jalrSameRegister
  else .next ((s.retireBranch true (s.readRs rs)).setReg rd (linkValue s.pc))

/-- BEQ (R198). -/
def execBeq (rs rt : Reg) (offset : Imm) (s : State) : Result :=
  branchIf (s.readRs rs == s.readRt rt) offset s

/-- BNE (R199). -/
def execBne (rs rt : Reg) (offset : Imm) (s : State) : Result :=
  branchIf (s.readRs rs != s.readRt rt) offset s

/-- BLEZ (R200). -/
def execBlez (rs : Reg) (offset : Imm) (s : State) : Result := branchIf (isLez (s.readRs rs)) offset s

/-- BGTZ (R201). -/
def execBgtz (rs : Reg) (offset : Imm) (s : State) : Result := branchIf (isGtz (s.readRs rs)) offset s

/-- BLTZ (R202). -/
def execBltz (rs : Reg) (offset : Imm) (s : State) : Result := branchIf (signBit (s.readRs rs)) offset s

/-- BGEZ (R203). -/
def execBgez (rs : Reg) (offset : Imm) (s : State) : Result := branchIf (!signBit (s.readRs rs)) offset s

/-- BLTZAL (R204, R206). -/
def execBltzal (rs : Reg) (offset : Imm) (s : State) : Result :=
  branchLinkIf rs (signBit (s.readRs rs)) offset s

/-- BGEZAL (R205, R206). -/
def execBgezal (rs : Reg) (offset : Imm) (s : State) : Result :=
  branchLinkIf rs (!signBit (s.readRs rs)) offset s

end Sys2Proof.Machine
end

