-- ==== Sys2Proof/Machine/Coprocessor.lean ====
section
/-! DEFINITION. The coprocessor instructions BCzF, BCzT, MFCz and MTCz (44_coprocessor.md), those of
unit 0 and RFE and the TLB instructions (45_coprocessor0.md) among them. -/

namespace Sys2Proof.Machine

/-- BCzF and BCzT are valid for z (R225, `BC_VALID_Z`, which must contain 0). -/
def bcValid (c : Config) (z : CopUnit) : Bool := z == 0#2 || c.bcValidZ.getLsbD z.toNat

/-- The condition line z as the previous instruction's step saw it (R221). -/
def State.condLine (s : State) (z : CopUnit) : Bool := s.cpcPrev.getLsbD z.toNat

/-- BCzF and BCzT (R225, R226): the delay-slot rule (R340), the usable bit (R220, R222), the validity of z
(R224), then the branch on `cpc_prev[z] = cond`. -/
def branchOnCop (z : CopUnit) (cond : Bool) (offset : Imm) (s : State) : Result :=
  if s.inDelaySlot then .refused .branchInDelaySlot
  else if !s.cu z then raise (.cpu z) s
  else if !bcValid s.cfg z then .refused (.coprocessorUndefined z)
  else branchIf (s.condLine z == cond) offset s

/-- A word of coprocessor z = 1, 2 or 3 that is no branch (R220, R224): Coprocessor Unusable, or undefined. -/
def copUndefined (z : CopUnit) (s : State) : Result :=
  if !s.cu z then raise (.cpu z) s else .refused (.coprocessorUndefined z)

/-- BC0F (R225). -/
def execBc0f (offset : Imm) (s : State) : Result := branchOnCop 0#2 false offset s

/-- BC0T (R226). -/
def execBc0t (offset : Imm) (s : State) : Result := branchOnCop 0#2 true offset s

/-- BC1F (R225). -/
def execBc1f (offset : Imm) (s : State) : Result := branchOnCop 1#2 false offset s

/-- BC1T (R226). -/
def execBc1t (offset : Imm) (s : State) : Result := branchOnCop 1#2 true offset s

/-- BC2F (R225). -/
def execBc2f (offset : Imm) (s : State) : Result := branchOnCop 2#2 false offset s

/-- BC2T (R226). -/
def execBc2t (offset : Imm) (s : State) : Result := branchOnCop 2#2 true offset s

/-- BC3F (R225). -/
def execBc3f (offset : Imm) (s : State) : Result := branchOnCop 3#2 false offset s

/-- BC3T (R226). -/
def execBc3t (offset : Imm) (s : State) : Result := branchOnCop 3#2 true offset s

/-- MFC0 (R241, R240, R242). -/
def execMfc0 (rt : Reg) (rd : CopReg) (s : State) : Result :=
  if !s.cp0Open then raise .ri s else .next (s.retireMove rt (s.cp0Read rd))

/-- MTC0 (R245, R240, R247, R248): SR is written whole, of Cause only the software interrupt bits; a write
to any other register is not modelled by the spec. -/
def execMtc0 (rt : Reg) (rd : CopReg) (s : State) : Result :=
  if !s.cp0Open then raise .ri s
  else if rd = s.cfg.cp0Map.sr then
    .next { s.retireSeq with sr := s.readRt rt, mtcShadow := some (.sr s.sr) }
  else if rd = s.cfg.cp0Map.cause then
    .next { s.retireSeq with cause := causeWrite s.cause (s.readRt rt), mtcShadow := some (.cause s.cause) }
  else .refused (.cp0WriteUnmodelled rd)

/-- MFC1 (R227): unusable or undefined. -/
def execMfc1 (_rt : Reg) (_rd : CopReg) (s : State) : Result := copUndefined 1#2 s

/-- MTC1 (R228): unusable or undefined. -/
def execMtc1 (_rt : Reg) (_rd : CopReg) (s : State) : Result := copUndefined 1#2 s

/-- MFC2 (R227): unusable or undefined. -/
def execMfc2 (_rt : Reg) (_rd : CopReg) (s : State) : Result := copUndefined 2#2 s

/-- MTC2 (R228): unusable or undefined. -/
def execMtc2 (_rt : Reg) (_rd : CopReg) (s : State) : Result := copUndefined 2#2 s

/-- MFC3 (R227): unusable or undefined. -/
def execMfc3 (_rt : Reg) (_rd : CopReg) (s : State) : Result := copUndefined 3#2 s

/-- MTC3 (R228): unusable or undefined. -/
def execMtc3 (_rt : Reg) (_rd : CopReg) (s : State) : Result := copUndefined 3#2 s

/-- RFE (R243, R240, R242): not directly after a load or store (R348). -/
def execRfe (s : State) : Result :=
  if !s.cp0Open then raise .ri s
  else if s.lastWasMem then .refused .memoryBeforeRfe
  else .next s.returnStatus.retireSeq

/-- TLBR, not implemented (R244): Reserved Instruction in every mode. -/
def execTlbr (s : State) : Result := raise .ri s

/-- TLBWI, not implemented (R244): Reserved Instruction in every mode. -/
def execTlbwi (s : State) : Result := raise .ri s

/-- TLBWR, not implemented (R244): Reserved Instruction in every mode. -/
def execTlbwr (s : State) : Result := raise .ri s

/-- TLBP, not implemented (R244): Reserved Instruction in every mode. -/
def execTlbp (s : State) : Result := raise .ri s

end Sys2Proof.Machine
end

