-- ==== Sys2Proof/Machine/LoadStore.lean ====
section
/-! DEFINITION. The twelve load and store instructions (40_load_store.md). -/

namespace Sys2Proof.Machine

/-- LB (R111). -/
def execLb (base rt : Reg) (offset : Imm) (s : State) : Result :=
  let p := s.dataPhys base offset
  loadAccess false (s.dataAddr base offset) (spanBytes p 1) rt
    (signExtendByte (Memory.read s.mem (physAt p 0))) s

/-- LBU (R112). -/
def execLbu (base rt : Reg) (offset : Imm) (s : State) : Result :=
  let p := s.dataPhys base offset
  loadAccess false (s.dataAddr base offset) (spanBytes p 1) rt
    (zeroExtendByte (Memory.read s.mem (physAt p 0))) s

/-- LH (R113). -/
def execLh (base rt : Reg) (offset : Imm) (s : State) : Result :=
  let addr := s.dataAddr base offset
  let p := s.dataPhys base offset
  loadAccess (oddAddress addr) addr (spanBytes p 2) rt
    (signExtendHalf (Memory.readHalf s.mem s.cfg.bigEndian p)) s

/-- LHU (R114). -/
def execLhu (base rt : Reg) (offset : Imm) (s : State) : Result :=
  let addr := s.dataAddr base offset
  let p := s.dataPhys base offset
  loadAccess (oddAddress addr) addr (spanBytes p 2) rt
    (zeroExtendHalf (Memory.readHalf s.mem s.cfg.bigEndian p)) s

/-- LW (R115). -/
def execLw (base rt : Reg) (offset : Imm) (s : State) : Result :=
  let addr := s.dataAddr base offset
  let p := s.dataPhys base offset
  loadAccess (notWordAligned addr) addr (spanBytes p 4) rt (Memory.readWord s.mem s.cfg.bigEndian p) s

/-- LWL (R116, R122): the bytes in lanes byte to 0. -/
def execLwl (base rt : Reg) (offset : Imm) (s : State) : Result :=
  let addr := s.dataAddr base offset
  let p := s.dataPhys base offset
  let lane := laneIndex s.cfg.bigEndian addr
  loadAccess false addr (laneBytes s.cfg.bigEndian p 0 lane) rt
    (mergeLeft lane (Memory.readWord s.mem s.cfg.bigEndian (alignWord p)) (s.mergeOperand rt)) s

/-- LWR (R117, R122): the bytes in lanes 3 to byte. -/
def execLwr (base rt : Reg) (offset : Imm) (s : State) : Result :=
  let addr := s.dataAddr base offset
  let p := s.dataPhys base offset
  let lane := laneIndex s.cfg.bigEndian addr
  loadAccess false addr (laneBytes s.cfg.bigEndian p lane 3) rt
    (mergeRight lane (Memory.readWord s.mem s.cfg.bigEndian (alignWord p)) (s.mergeOperand rt)) s

/-- SB (R118). -/
def execSb (base rt : Reg) (offset : Imm) (s : State) : Result :=
  storeAccess false (s.dataAddr base offset)
    (spanCells s.cfg.bigEndian (s.dataPhys base offset) 1 (s.readRt rt)) s

/-- SH (R119). -/
def execSh (base rt : Reg) (offset : Imm) (s : State) : Result :=
  let addr := s.dataAddr base offset
  storeAccess (oddAddress addr) addr
    (spanCells s.cfg.bigEndian (s.dataPhys base offset) 2 (s.readRt rt)) s

/-- SW (R120). -/
def execSw (base rt : Reg) (offset : Imm) (s : State) : Result :=
  let addr := s.dataAddr base offset
  storeAccess (notWordAligned addr) addr
    (spanCells s.cfg.bigEndian (s.dataPhys base offset) 4 (s.readRt rt)) s

/-- SWL (R121, R122): lanes byte to 0. -/
def execSwl (base rt : Reg) (offset : Imm) (s : State) : Result :=
  let addr := s.dataAddr base offset
  let lane := laneIndex s.cfg.bigEndian addr
  storeAccess false addr
    (laneCells s.cfg.bigEndian (s.dataPhys base offset) 0 lane (storeLeftData lane (s.readRt rt))) s

/-- SWR (R123, R122): lanes 3 to byte. -/
def execSwr (base rt : Reg) (offset : Imm) (s : State) : Result :=
  let addr := s.dataAddr base offset
  let lane := laneIndex s.cfg.bigEndian addr
  storeAccess false addr
    (laneCells s.cfg.bigEndian (s.dataPhys base offset) lane 3 (storeRightData lane (s.readRt rt))) s

end Sys2Proof.Machine
end

