-- ==== Sys2Proof/Machine/MultiplyDivide.lean ====
section
/-! DEFINITION. Multiply and divide (42_multiply_divide.md) and the moves between HI, LO and the general
registers (46_special.md). -/

namespace Sys2Proof.Machine

/-- The two halves of a double result, (HI, LO) (R183). -/
def splitDouble (t : BitVec 64) : Word × Word := (t.extractLsb' 32 32, t.extractLsb' 0 32)

/-- `signed(a) * signed(b)` (R183). -/
def multSigned (a b : Word) : BitVec 64 := BitVec.ofInt 64 (a.toInt * b.toInt)

/-- `unsigned(a) * unsigned(b)` (R184). -/
def multUnsigned (a b : Word) : BitVec 64 := BitVec.ofNat 64 (a.toNat * b.toNat)

/-- The result where `DIV_NUMERICS` decides (R187): undefined values, or the reported ones. -/
def divCorner (n : DivNumerics) (undef reported : Word × Word) : Word × Word :=
  match n with
  | .undefined => undef
  | .r3000 => reported

/-- DIV's (HI, LO) (R185, R187): quotient toward zero, remainder with the dividend's sign. `undef` is the
pair of undefined values. -/
def divSigned (n : DivNumerics) (undef : Word × Word) (a b : Word) : Word × Word :=
  if b = 0#32 then
    divCorner n undef (a, if a.getLsbD 31 then 0x00000001#32 else 0xFFFFFFFF#32)
  else if a = 0x80000000#32 ∧ b = 0xFFFFFFFF#32 then
    divCorner n undef (0x00000000#32, 0x80000000#32)
  else (BitVec.ofInt 32 (a.toInt.tmod b.toInt), BitVec.ofInt 32 (a.toInt.tdiv b.toInt))

/-- DIVU's (HI, LO) (R186, R187). -/
def divUnsigned (n : DivNumerics) (undef : Word × Word) (a b : Word) : Word × Word :=
  if b = 0#32 then divCorner n undef (a, 0xFFFFFFFF#32)
  else (BitVec.ofNat 32 (a.toNat % b.toNat), BitVec.ofNat 32 (a.toNat / b.toNat))

/-- The undefined pair (HI, LO) of this step. -/
def State.undefPair (s : State) : Word × Word := (s.free slotHi, s.free slotLo)

/-- One of the two preceding instructions was MFHI or MFLO (R344). -/
def State.recentMf (s : State) : Bool := s.mfHi.isSome || s.mfLo.isSome

/-- A multiply or divide completes with (HI, LO), unless HI or LO has just been read (R180, R344). -/
def writeDouble (hilo : Word × Word) (s : State) : Result :=
  if s.recentMf then .refused .hiLoWriteTooSoon
  else .next { s.retireSeq with hi := hilo.1, lo := hilo.2, mdFresh := true }

/-- MULT (R183). -/
def execMult (rs rt : Reg) (s : State) : Result :=
  writeDouble (splitDouble (multSigned (s.readRs rs) (s.readRt rt))) s

/-- MULTU (R184). -/
def execMultu (rs rt : Reg) (s : State) : Result :=
  writeDouble (splitDouble (multUnsigned (s.readRs rs) (s.readRt rt))) s

/-- DIV (R185). -/
def execDiv (rs rt : Reg) (s : State) : Result :=
  writeDouble (divSigned s.cfg.divNumerics s.undefPair (s.readRs rs) (s.readRt rt)) s

/-- DIVU (R186). -/
def execDivu (rs rt : Reg) (s : State) : Result :=
  writeDouble (divUnsigned s.cfg.divNumerics s.undefPair (s.readRs rs) (s.readRt rt)) s

/-- MFHI (R263). -/
def execMfhi (rd : Reg) (s : State) : Result :=
  .next { s.retireReg rd s.hi with mfHi := some { age := 0, rd := rd }, mdFresh := false }

/-- MFLO (R265). -/
def execMflo (rd : Reg) (s : State) : Result :=
  .next { s.retireReg rd s.lo with mfLo := some { age := 0, rd := rd }, mdFresh := false }

/-- MTHI (R264): LO becomes undefined right after a multiply or divide (R345). -/
def execMthi (rs : Reg) (s : State) : Result :=
  if s.mfHi.isSome then .refused .hiLoWriteTooSoon
  else .next { s.retireSeq with
    hi := s.readRs rs, lo := if s.mdFresh then s.free slotLo else s.lo, mdFresh := false }

/-- MTLO (R266): HI becomes undefined right after a multiply or divide (R345). -/
def execMtlo (rs : Reg) (s : State) : Result :=
  if s.mfLo.isSome then .refused .hiLoWriteTooSoon
  else .next { s.retireSeq with
    lo := s.readRs rs, hi := if s.mdFresh then s.free slotHi else s.hi, mdFresh := false }

end Sys2Proof.Machine
end

