-- ==== Sys2Proof/Machine/Special.lean ====
section
/-! DEFINITION. The trap instructions SYSCALL and BREAK (46_special.md R261, R262). The moves between HI,
LO and the general registers stand in MultiplyDivide.lean. -/

namespace Sys2Proof.Machine

/-- SYSCALL (R261): the hardware does not read the code field. -/
def execSyscall (_code : BitVec 20) (s : State) : Result := raise .sys s

/-- BREAK (R262): the hardware does not read the code field. -/
def execBreak (_code : BitVec 20) (s : State) : Result := raise .bp s

end Sys2Proof.Machine
end

