-- ==== Sys2Proof/Machine/Run.lean ====
section
/-! DEFINITION. What one step does (10_state.md R35): reset, interrupt, fetch, decode, execute, and the
end of the step; and the rule of 45_coprocessor0.md R247 for the step after an MTC0. -/

namespace Sys2Proof.Machine

/-- A word whose opcode fields select i and whose constant-zero field is not zero (R94). -/
def runMustBeZero (i : Instr) (s : State) : Result :=
  match s.cfg.mbzPolicy with
  | .refuse => .refused .mustBeZero
  | .ignore => exec i s
  | .reservedInstruction => raise .ri s

/-- The effect of an instruction word (R92, R93, R94). -/
def runWord (w : Word) (s : State) : Result :=
  match decode s.cfg.multVariant w with
  | .instr i => exec i s
  | .mustBeZero i => runMustBeZero i s
  | .reserved => raise .ri s
  | .copUnassigned z => copUndefined z s

/-- Step 9 of R35 on an outcome. -/
def finishStep : Result → Result
  | .next s => .next s.endStep
  | .fault f => .fault f
  | .refused r => .refused r

/-- R35 steps 1 to 9, with the reset input (R331) before them. -/
def stepUnder (s : State) : Result :=
  if s.pins.reset then .next s.applyReset.nextSample
  else if s.interruptNow then .next (preempt .int s).endStep
  else match s.fetch with
    | .word w => finishStep (runWord w s)
    | .raise e => .next (preempt e s).endStep
    | .fault f => .fault f
    | .refused r => .refused r

/-- The state under a given `MTC_VISIBILITY`. -/
def State.withVisibility (s : State) (v : MtcVisibility) : State :=
  { s with cfg := { s.cfg with mtcVisibility := v } }

/-- R247: the outcome that both answers give, or a refusal if they differ. -/
def agreeOutcome (a b : Result) : Result :=
  match a, b with
  | .next s, .next t =>
    if s.withVisibility .unspecified = t.withVisibility .unspecified then .next (s.withVisibility .unspecified)
    else .refused .mtcVisibility
  | .fault f, .fault g => if f = g then .fault f else .refused .mtcVisibility
  | .refused q, .refused r => if q = r then .refused q else .refused .mtcVisibility
  | .next _, .fault _ => .refused .mtcVisibility
  | .next _, .refused _ => .refused .mtcVisibility
  | .fault _, .next _ => .refused .mtcVisibility
  | .fault _, .refused _ => .refused .mtcVisibility
  | .refused _, .next _ => .refused .mtcVisibility
  | .refused _, .fault _ => .refused .mtcVisibility

/-- One step. With `MTC_VISIBILITY` unspecified, the step after an MTC0 is taken under both answers (R247). -/
def stepChecked (s : State) : Result :=
  match s.cfg.mtcVisibility, s.mtcShadow with
  | .unspecified, some _ => agreeOutcome (stepUnder (s.withVisibility .next)) (stepUnder (s.withVisibility .afterOne))
  | _, _ => stepUnder s

/-- The instruction word's four bytes at the physical address where `pc` is fetched, in the byte order. -/
def fetchCells (s : State) (w : Word) : List Host.Cell :=
  spanCells s.cfg.bigEndian (alignWord (biu s.cfg s.pc)) 4 w

/-- Places bytes in memory from outside the machine: they do not count as stored to (R69). -/
def placeBytes (m : Memory) : List Host.Cell → Memory
  | [] => m
  | (p, b) :: cells => placeBytes (Memory.write m p b) cells

/-- The state with the word w where the next instruction is fetched, and that word not stored to. -/
def State.placeAtPc (s : State) (w : Word) : State :=
  { s with
    mem := placeBytes s.mem (fetchCells s w)
    stored := s.stored.filter (fun p => p != (alignWord (biu s.cfg s.pc)).toNat) }

end Sys2Proof.Machine
end

