-- ==== Sys2Proof/Machine/Step.lean ====
section
/-! DEFINITION. One step of the machine (10_state.md R35), and the placing of an instruction word where it
fetches next. -/

namespace Sys2Proof.Machine

/-- One step (R35, R247). -/
def step (s : State) : Host.Outcome State Fault Refusal := stepChecked s

/-- The state with the instruction whose bits are the low `nbits` bits of `w` where `step` fetches its next
instruction: the initial memory image holds it there (R37; log entry 12). -/
def State.withFetchWord (s : State) (nbits w : Nat) : State :=
  s.placeAtPc (BitVec.ofNat 32 (w % 2 ^ nbits))

end Sys2Proof.Machine
end

