-- ==== Sys2Proof/Safety.lean ====
section
/-! DEFINITION. What counts as a safe run and a sound state, and the words the statements use: when a data
access is admitted, what an instruction leaves as it was, what exception entry leaves. -/

namespace Sys2Proof.Machine

/-! ### Sound states and runs -/

/-- Word addresses of the physical space from `lo` on, strictly rising. -/
def wordsRisingFrom : Nat → List Nat → Bool
  | _, [] => true
  | lo, a :: l =>
    decide (lo ≤ a) && decide (a < 4294967296) && decide (a % 4 = 0) && wordsRisingFrom (a + 1) l

/-- Cause holds nothing outside its stored bits (R291). -/
def causeSound (c : Word) : Prop := c &&& ~~~causeStored = 0#32

/-- The invariant of the machine. -/
structure State.Inv (s : State) : Prop where
  /-- memory is in its canonical form -/
  memory : Memory.wf s.mem = true
  /-- the words stored to are word addresses, each listed once (R69) -/
  storedWords : wordsRisingFrom 0 s.stored = true
  /-- the cell of register 0 stays zero (R21) -/
  registerZero : s.gpr[0] = 0#32
  /-- nothing is pending for register 0 (R32) -/
  pendingNotZero : ∀ r v, s.loadPending = some (r, v) → r ≠ 0#5
  /-- outside a delay slot the next instruction is the one after this one (R23) -/
  sequential : s.inDelaySlot = false → s.npc = s.pc + 4#32
  /-- Cause has its layout (R291) -/
  cause : causeSound s.cause
  /-- and so has the value `mtc_shadow` keeps of it (R247) -/
  causeShadow : ∀ c, s.mtcShadow = some (.cause c) → causeSound c

/-- `t` comes from `s` in some number of steps. -/
inductive State.Reaches : State → State → Prop
  | refl (s : State) : State.Reaches s s
  | tail {s t u : State} : State.Reaches s t → step t = .next u → State.Reaches s u

/-- A run of n steps that neither faults nor is refused. -/
def State.RunsFor (s : State) (n : Nat) : Prop := ∃ t, Host.Core.run Sys2Proof.core n s = .next t

/-! ### When a data access is admitted -/

/-- A user-mode access at or above the user limit (R64). -/
def State.beyondLimit (s : State) (addr : Word) : Prop :=
  s.user = true ∧ s.cfg.userLimit.toNat ≤ addr.toNat

/-- The access passes every check: aligned (R61), permitted (R64), no bus error (R65), every byte in the
platform's map (R54). -/
structure State.Admits (s : State) (k : AccessKind) (misaligned : Bool) (addr : Word) (bytes : List Nat) : Prop where
  aligned : misaligned = false
  permitted : ¬ s.beyondLimit addr
  answered : isBusError s.cfg k (biu s.cfg addr) = false
  mapped : ∀ p ∈ bytes, isMapped s.cfg k p = true

/-- The Address Error exception of an access (R61, R64, R285). -/
def addressError (k : AccessKind) (addr : Word) : Exc :=
  match k with
  | .store => .ades addr
  | .load => .adel addr
  | .fetch => .adel addr

/-- One data access: what R110 checks of a load or store. -/
structure Access where
  kind : AccessKind
  misaligned : Bool
  addr : Word
  bytes : List Nat
deriving DecidableEq, Repr

/-- The access that a load or store makes (R51, R52, R61, R122). -/
def State.accessOf (s : State) : Instr → Option Access
  | .lb b _ o => some ⟨.load, false, s.dataAddr b o, spanBytes (s.dataPhys b o) 1⟩
  | .lbu b _ o => some ⟨.load, false, s.dataAddr b o, spanBytes (s.dataPhys b o) 1⟩
  | .lh b _ o => some ⟨.load, (s.dataAddr b o).getLsbD 0, s.dataAddr b o, spanBytes (s.dataPhys b o) 2⟩
  | .lhu b _ o => some ⟨.load, (s.dataAddr b o).getLsbD 0, s.dataAddr b o, spanBytes (s.dataPhys b o) 2⟩
  | .lw b _ o => some ⟨.load, (s.dataAddr b o).extractLsb' 0 2 != 0#2, s.dataAddr b o,
      spanBytes (s.dataPhys b o) 4⟩
  | .lwl b _ o => some ⟨.load, false, s.dataAddr b o,
      laneBytes s.cfg.bigEndian (s.dataPhys b o) 0 (laneIndex s.cfg.bigEndian (s.dataAddr b o))⟩
  | .lwr b _ o => some ⟨.load, false, s.dataAddr b o,
      laneBytes s.cfg.bigEndian (s.dataPhys b o) (laneIndex s.cfg.bigEndian (s.dataAddr b o)) 3⟩
  | .sb b _ o => some ⟨.store, false, s.dataAddr b o, spanBytes (s.dataPhys b o) 1⟩
  | .sh b _ o => some ⟨.store, (s.dataAddr b o).getLsbD 0, s.dataAddr b o, spanBytes (s.dataPhys b o) 2⟩
  | .sw b _ o => some ⟨.store, (s.dataAddr b o).extractLsb' 0 2 != 0#2, s.dataAddr b o,
      spanBytes (s.dataPhys b o) 4⟩
  | .swl b _ o => some ⟨.store, false, s.dataAddr b o,
      laneBytes s.cfg.bigEndian (s.dataPhys b o) 0 (laneIndex s.cfg.bigEndian (s.dataAddr b o))⟩
  | .swr b _ o => some ⟨.store, false, s.dataAddr b o,
      laneBytes s.cfg.bigEndian (s.dataPhys b o) (laneIndex s.cfg.bigEndian (s.dataAddr b o)) 3⟩
  | _ => none

/-- The fetch at `pc` passes every check (R62 to R65, R54, R69). -/
structure State.FetchAdmits (s : State) : Prop where
  aligned : s.pc.extractLsb' 0 2 = 0#2
  permitted : ¬ s.beyondLimit s.pc
  answered : isBusError s.cfg .fetch (biu s.cfg s.pc) = false
  mapped : ∀ p ∈ spanBytes (alignWord (biu s.cfg s.pc)) 4, isMapped s.cfg .fetch p = true
  notStored : (alignWord (biu s.cfg s.pc)).toNat ∉ s.stored

/-- The step sees one SR and one Cause: no MTC0 has just been executed, or `MTC_VISIBILITY` is given (R247). -/
def State.Settled (s : State) : Prop := s.mtcShadow = none ∨ s.cfg.mtcVisibility ≠ .unspecified

/-! ### What an instruction is -/

/-- The word is the instruction, whatever `MULT_FUNCT_VARIANT` is. -/
def Encodes (w : Word) (i : Instr) : Prop := ∀ v, decode v w = .instr i

/-- The constant-zero bits of an instruction's format (R82 to R84, R94), the `mbz_mask` of its row. RFE and the four TLB
instructions have none here, since R93 makes every other word of their pattern undefined (log entry 20), and neither
have MFCz and MTCz of units 1 to 3, whose words R220 sends elsewhere whatever bits 25:0 hold (log entry 21). -/
def zeroBits : Instr → Word
  | .lui _ _ => 0x03E00000#32
  | .sll _ _ _ | .srl _ _ _ | .sra _ _ _ => 0x03E00000#32
  | .sllv _ _ _ | .srlv _ _ _ | .srav _ _ _ => 0x000007C0#32
  | .add _ _ _ | .addu _ _ _ | .sub _ _ _ | .subu _ _ _ => 0x000007C0#32
  | .and _ _ _ | .or _ _ _ | .xor _ _ _ | .nor _ _ _ | .slt _ _ _ | .sltu _ _ _ => 0x000007C0#32
  | .mult _ _ | .multu _ _ | .div _ _ | .divu _ _ => 0x0000FFC0#32
  | .jr _ | .mthi _ | .mtlo _ => 0x001FFFC0#32
  | .jalr _ _ => 0x001F07C0#32
  | .blez _ _ | .bgtz _ _ => 0x001F0000#32
  | .mfhi _ | .mflo _ => 0x03FF07C0#32
  | .mfc0 _ _ | .mtc0 _ _ => 0x000007FF#32
  | _ => 0x00000000#32

/-- The jumps and branches, those of the coprocessors among them (R191). -/
def isTransfer : Instr → Bool
  | .j _ | .jal _ | .jr _ | .jalr _ _ => true
  | .beq _ _ _ | .bne _ _ _ | .blez _ _ | .bgtz _ _ | .bltz _ _ | .bgez _ _ | .bltzal _ _ | .bgezal _ _ => true
  | .bc0f _ | .bc0t _ | .bc1f _ | .bc1t _ | .bc2f _ | .bc2t _ | .bc3f _ | .bc3t _ => true
  | _ => false

/-- The branches on a condition, those of the coprocessors among them (R192). -/
def isConditional : Instr → Bool
  | .j _ | .jal _ | .jr _ | .jalr _ _ => false
  | i => isTransfer i

/-- Where a jump or branch goes if it is taken (R192, R194 to R197). -/
def State.targetOf (s : State) : Instr → Option Word
  | .j target | .jal target => some (jumpTarget s.pc target)
  | .jr rs | .jalr rs _ => some (s.readRs rs)
  | .beq _ _ o | .bne _ _ o | .blez _ o | .bgtz _ o => some (branchTarget s.pc o)
  | .bltz _ o | .bgez _ o | .bltzal _ o | .bgezal _ o => some (branchTarget s.pc o)
  | .bc0f o | .bc0t o | .bc1f o | .bc1t o => some (branchTarget s.pc o)
  | .bc2f o | .bc2t o | .bc3f o | .bc3t o => some (branchTarget s.pc o)
  | _ => none

/-- The stores (R125). -/
def isStore : Instr → Bool
  | .sb _ _ _ | .sh _ _ _ | .sw _ _ _ | .swl _ _ _ | .swr _ _ _ => true
  | _ => false

/-- The instructions that write HI or LO (R24). -/
def writesHiLo : Instr → Bool
  | .mult _ _ | .multu _ _ | .div _ _ | .divu _ _ | .mthi _ | .mtlo _ => true
  | _ => false

/-- The general register that an instruction names as its destination, if it has one: rt or rd, or r31 of the
linking instructions (R140, R193, R227). -/
def destination : Instr → Option Reg
  | .lb _ rt _ | .lbu _ rt _ | .lh _ rt _ | .lhu _ rt _ | .lw _ rt _ | .lwl _ rt _ | .lwr _ rt _ => some rt
  | .addi _ rt _ | .addiu _ rt _ | .slti _ rt _ | .sltiu _ rt _ => some rt
  | .andi _ rt _ | .ori _ rt _ | .xori _ rt _ | .lui rt _ => some rt
  | .add _ _ rd | .addu _ _ rd | .sub _ _ rd | .subu _ _ rd => some rd
  | .and _ _ rd | .or _ _ rd | .xor _ _ rd | .nor _ _ rd | .slt _ _ rd | .sltu _ _ rd => some rd
  | .sll _ rd _ | .srl _ rd _ | .sra _ rd _ | .sllv _ _ rd | .srlv _ _ rd | .srav _ _ rd => some rd
  | .mfhi rd | .mflo rd | .jalr _ rd => some rd
  | .jal _ | .bltzal _ _ | .bgezal _ _ => some 31#5
  | .mfc0 rt _ | .mfc1 rt _ | .mfc2 rt _ | .mfc3 rt _ => some rt
  | _ => none

/-! ### What an instruction leaves as it was -/

/-- The value register q holds once the pending load has landed (R35 step 7). -/
def State.settled (s : State) (q : Reg) : Word := s.mergeOperand q

/-- No byte of memory and no stored-to mark has changed. -/
structure SameMemory (s t : State) : Prop where
  bytes : ∀ a, Memory.read t.mem a = Memory.read s.mem a
  stored : t.stored = s.stored

/-- HI, LO and `md_fresh` are as before. -/
structure SameHiLo (s t : State) : Prop where
  hi : t.hi = s.hi
  lo : t.lo = s.lo
  fresh : t.mdFresh = s.mdFresh

/-- The parameters, the inputs and the sampled condition lines are as before. -/
structure SameInputs (s t : State) : Prop where
  cfg : t.cfg = s.cfg
  pins : t.pins = s.pins
  nextPins : t.nextPins = s.nextPins
  cpcPrev : t.cpcPrev = s.cpcPrev
  freeTick : t.freeTick = s.freeTick

/-- The coprocessor registers are as before, but for those named. -/
structure SameCop (s t : State) : Prop where
  epc : t.epc = s.epc
  badVAddr : t.badVAddr = s.badVAddr
  cpr : t.cpr = s.cpr

/-- SR and Cause are as before. -/
structure SameStatus (s t : State) : Prop where
  sr : t.sr = s.sr
  cause : t.cause = s.cause

/-- Execution goes on at `npc` and then at `target` (R23). -/
structure GoesTo (s t : State) (target : Word) (slot : Bool) : Prop where
  pc : t.pc = s.npc
  npc : t.npc = target
  inDelaySlot : t.inDelaySlot = slot

/-- The windows of MFHI and MFLO move on by one instruction (R33). -/
structure Aged (s t : State) : Prop where
  mfHi : t.mfHi = ageMf s.mfHi
  mfLo : t.mfLo = ageMf s.mfLo

/-- Completion in sequence with v in register rd, and nothing else changed: the pending load has landed,
unless rd is its register (R32, R35). -/
structure ComputesInto (s t : State) (rd : Reg) (v : Word) : Prop where
  result : ∀ q, t.gprRead q = if q = 0#5 then 0#32 else if q = rd then v else s.settled q
  noPending : t.loadPending = none
  goes : GoesTo s t (s.npc + 4#32) false
  memory : SameMemory s t
  hilo : SameHiLo s t
  status : SameStatus s t
  cop : SameCop s t
  inputs : SameInputs s t
  aged : Aged s t
  shadow : t.mtcShadow = none
  notMem : t.lastWasMem = false

/-- Completion of a jump or branch, with the link value in a register if it has one. -/
structure TransfersTo (s t : State) (target : Word) (link : Option (Reg × Word)) : Prop where
  result : ∀ q, t.gprRead q =
    if q = 0#5 then 0#32 else match link with
      | some (r, v) => if q = r then v else s.settled q
      | none => s.settled q
  noPending : t.loadPending = none
  goes : GoesTo s t target true
  memory : SameMemory s t
  hilo : SameHiLo s t
  status : SameStatus s t
  cop : SameCop s t
  inputs : SameInputs s t
  aged : Aged s t
  shadow : t.mtcShadow = none
  notMem : t.lastWasMem = false

/-- Completion of a load or of a move from a coprocessor: the value is pending for rt, rt itself is as it
was, an older pending load of another register has landed (R32). -/
structure DeliversTo (s t : State) (rt : Reg) (v : Word) (mem : Bool) : Prop where
  pending : t.loadPending = if rt = 0#5 then none else some (rt, v)
  others : ∀ q, t.gprRead q = if q = rt then s.gprRead q else s.settled q
  goes : GoesTo s t (s.npc + 4#32) false
  memory : SameMemory s t
  hilo : SameHiLo s t
  status : SameStatus s t
  cop : SameCop s t
  inputs : SameInputs s t
  aged : Aged s t
  shadow : t.mtcShadow = none
  lastWasMem : t.lastWasMem = mem

/-- Completion of a store of bytes at physical addresses: those bytes hold the values, every other byte is
as it was, and the words of exactly those bytes are marked as stored to (R57, R69). -/
structure StoresAt (s t : State) (cells : List Host.Cell) : Prop where
  stored : ∀ p b, (p, b) ∈ cells → Memory.read t.mem p = b
  others : ∀ a, (∀ b, (a, b) ∉ cells) → Memory.read t.mem a = Memory.read s.mem a
  marked : ∀ w, w ∈ t.stored ↔ w ∈ s.stored ∨ ∃ p b, (p, b) ∈ cells ∧ w = wordAddr p
  registers : ∀ q, t.gprRead q = s.settled q
  noPending : t.loadPending = none
  goes : GoesTo s t (s.npc + 4#32) false
  hilo : SameHiLo s t
  status : SameStatus s t
  cop : SameCop s t
  inputs : SameInputs s t
  aged : Aged s t
  shadow : t.mtcShadow = none
  lastWasMem : t.lastWasMem = true

/-- Completion in sequence without a register result: the general registers, memory and inputs as before.
`mtc_shadow` is left out for MTC0, which sets it. -/
structure Advances (s t : State) : Prop where
  registers : ∀ q, t.gprRead q = s.settled q
  noPending : t.loadPending = none
  goes : GoesTo s t (s.npc + 4#32) false
  memory : SameMemory s t
  inputs : SameInputs s t
  aged : Aged s t
  notMem : t.lastWasMem = false

/-- The same of every other instruction, which clears `mtc_shadow` (R35 step 8). -/
structure Proceeds (s t : State) : Prop extends Advances s t where
  shadow : t.mtcShadow = none

/-! ### What exception entry leaves -/

/-- The unit of a Coprocessor Unusable exception, or else the old CE (R288, R290 step 2). -/
def unitOr (old : BitVec 2) : Exc → BitVec 2
  | .cpu z => z
  | _ => old

/-- The address of an Address Error exception, or else the old BadVAddr (R285, R290 step 2). -/
def addressOr (old : Word) : Exc → Word
  | .adel a => a
  | .ades a => a
  | _ => old

/-- The registers exception entry writes, field by field (R283, R285, R288, R290). -/
structure EntryWrites (e : Exc) (s t : State) : Prop where
  /-- step 1: the restart address -/
  epc : t.epc = if s.inDelaySlot then s.pc - 4#32 else s.pc
  /-- step 1: BD -/
  bd : t.cause.getLsbD 31 = s.inDelaySlot
  /-- step 2: ExcCode -/
  excCode : t.cause.extractLsb' 2 5 = excCode s.cfg.excCodes e
  /-- step 2: CE, for Coprocessor Unusable only -/
  unit : t.cause.extractLsb' 28 2 = unitOr (s.cause.extractLsb' 28 2) e
  /-- the software interrupt bits are as before -/
  ip : t.cause.extractLsb' 8 2 = s.cause.extractLsb' 8 2
  /-- step 2: BadVAddr, for Address Error only -/
  badVAddr : t.badVAddr = addressOr s.badVAddr e
  /-- step 3: the KU/IE stack -/
  statusStack : t.sr.extractLsb' 0 6 = s.srView.extractLsb' 0 4 ++ 0#2
  /-- step 3: the rest of SR -/
  statusRest : t.sr.extractLsb' 6 26 = s.sr.extractLsb' 6 26
  /-- step 4 -/
  pc : t.pc = if s.srView.getLsbD 22 then s.cfg.excVectorBoot else s.cfg.excVector
  npc : t.npc = t.pc + 4#32
  inDelaySlot : t.inDelaySlot = false
  /-- step 5 -/
  shadow : t.mtcShadow = none

/-- An instruction has raised e: the entry, the pending load landed, and nothing else changed (R290, R295). -/
structure Enters (e : Exc) (s t : State) : Prop where
  entry : EntryWrites e s t
  registers : ∀ q, t.gprRead q = s.settled q
  noPending : t.loadPending = none
  memory : SameMemory s t
  hilo : SameHiLo s t
  inputs : SameInputs s t
  cpr : t.cpr = s.cpr
  mfHi : t.mfHi = s.mfHi
  mfLo : t.mfLo = s.mfLo
  lastWasMem : t.lastWasMem = s.lastWasMem

end Sys2Proof.Machine
end

