-- ==== Sys2Proof/Certificates/Slice0/Obligations.lean ====
section
/-! DEFINITION. The statements about the model, one `def Obligations.<Name> : Prop` each. Words are written out
from the encodings of the rules they cite; `s.readRs`, `s.readRt` are the register reads of R11, which
`LoadDelayAndRegisterZero` defines. Where a docstring ends in "Model's choice" or "Spec's own", the clause it names
rests on a decision of the log entries named (notes/assumptions) or on a reading that the rule named marks as derived,
decided or from general knowledge, not on the source's own words. -/

section

open Sys2Proof Sys2Proof.Machine

/-! ### Encoding and decoding -/

/-- Decoding the word that the encoder writes gives the instruction back, with every operand at every value,
under both `MULT_FUNCT_VARIANT`s (R86 to R92, R182). -/
def Obligations.DecodeInvertsEncode : Prop :=
  ∀ (v : MultVariant) (i : Instr), decode v (encode v i) = .instr i

/-- A word that decodes to an instruction is the encoder's word for it: no bit of an instruction's word is
without meaning, the constant-zero fields among them (R92, R94). -/
def Obligations.EncodeInvertsDecode : Prop :=
  ∀ (v : MultVariant) (w : Word) (i : Instr), decode v w = .instr i → encode v i = w

/-- Words that the rules print decode to the instructions they are printed for (R143, R111, R195, R243, R241,
R262, R201, R183). Spec's own: the conventional codes of R182 (log entry 29); the rules' example words. -/
def Obligations.PrintedWordsDecode : Prop :=
  Encodes 0x00221821#32 (.addu 1#5 2#5 3#5) ∧
  Encodes 0x2422FFFF#32 (.addiu 1#5 2#5 0xFFFF#16) ∧
  Encodes 0x00021900#32 (.sll 2#5 3#5 4#5) ∧
  Encodes 0x0C100040#32 (.jal 0x0100040#26) ∧
  Encodes 0x1C200003#32 (.bgtz 1#5 3#16) ∧
  Encodes 0x41000003#32 (.bc0f 3#16) ∧
  Encodes 0x40026000#32 (.mfc0 2#5 12#5) ∧
  Encodes 0x42000010#32 .rfe ∧
  Encodes 0x000001CD#32 (.brk 7#20) ∧
  decode .asPrinted 0x0022000E#32 = .instr (.mult 1#5 2#5) ∧
  decode .asPrinted 0x00220018#32 = .instr (.multu 1#5 2#5) ∧
  decode .mips1Conventional 0x00220018#32 = .instr (.mult 1#5 2#5) ∧
  decode .mips1Conventional 0x00220019#32 = .instr (.multu 1#5 2#5)

/-- The opcode cells that Tables 3, 4 and 5 leave empty, and the COP0 words that Tables 6 to 8 leave out, decode
to nothing (R93, with `MULT_FUNCT_VARIANT = as_printed`). Model's choice: log entry 20 for RFE's pattern with bits
24:5 set. -/
def Obligations.EmptyCellsAreReserved : Prop :=
  ∀ w : Word,
    (fieldOp w ∈ [0b010100#6, 0b010101#6, 0b010110#6, 0b010111#6, 0b011000#6, 0b011001#6, 0b011010#6,
        0b011011#6, 0b011100#6, 0b011101#6, 0b011110#6, 0b011111#6, 0b100111#6, 0b101100#6, 0b101101#6,
        0b101111#6] → decode .asPrinted w = .reserved) ∧
    ((fieldOp w).extractLsb' 4 2 = 0b11#2 → decode .asPrinted w = .reserved) ∧
    (fieldOp w = 0b000000#6 →
      fieldFunct w ∈ [0b000001#6, 0b000101#6, 0b001010#6, 0b001011#6, 0b001111#6, 0b010100#6, 0b010101#6,
        0b010110#6, 0b010111#6, 0b011001#6, 0b011100#6, 0b011101#6, 0b011110#6, 0b011111#6, 0b101000#6,
        0b101001#6, 0b101100#6, 0b101101#6, 0b101110#6, 0b101111#6] ∨
        (fieldFunct w).extractLsb' 4 2 = 0b11#2 → decode .asPrinted w = .reserved) ∧
    (fieldOp w = 0b000001#6 → fieldRt w ∉ [0b00000#5, 0b00001#5, 0b10000#5, 0b10001#5] →
      decode .asPrinted w = .reserved) ∧
    (fieldOp w = 0b010000#6 →
      fieldRs w ∈ [0b00001#5, 0b00010#5, 0b00011#5, 0b00101#5, 0b00110#5, 0b00111#5, 0b01001#5, 0b01010#5,
        0b01011#5, 0b01100#5, 0b01101#5, 0b01110#5, 0b01111#5] → decode .asPrinted w = .reserved) ∧
    (fieldOp w = 0b010000#6 → fieldRs w = 0b01000#5 → fieldRt w ∉ [0b00000#5, 0b00001#5] →
      decode .asPrinted w = .reserved) ∧
    (fieldOp w = 0b010000#6 → fieldCo w = 1#1 →
      fieldCofun w ∉ [0b10000#25, 0b00001#25, 0b00010#25, 0b00110#25, 0b01000#25] →
      decode .asPrinted w = .reserved)

/-- A word that is no instruction takes Reserved Instruction in every mode. The words that `MBZ_POLICY` decides are
exactly those that differ from an instruction's word in its constant-zero bits and in no other, and they do what it says,
a malformed jump or branch in a delay slot among them (R93, R94, R287). Model's choice: log entry 30 for that one; log
entries 20 and 21 for the instructions that `zeroBits` leaves out (RFE and TLB, MFCz and MTCz of units 1 to 3). Spec's
own: `MBZ_POLICY` (R94), and what entry leaves (log entry 26). -/
def Obligations.ReservedAndMustBeZeroWords : Prop :=
  ∀ (w : Word) (s : State),
    (decode s.cfg.multVariant w = .reserved → ∃ t, runWord w s = .next t ∧ Enters .ri s t) ∧
    (∀ i, decode s.cfg.multVariant w = .mustBeZero i ↔
      w ≠ encode s.cfg.multVariant i ∧ w &&& ~~~zeroBits i = encode s.cfg.multVariant i) ∧
    (∀ i, w ≠ encode s.cfg.multVariant i → w &&& ~~~zeroBits i = encode s.cfg.multVariant i →
      (s.cfg.mbzPolicy = .refuse → runWord w s = .refused .mustBeZero) ∧
      (s.cfg.mbzPolicy = .ignore → runWord w s = exec i s) ∧
      (s.cfg.mbzPolicy = .reservedInstruction → ∃ t, runWord w s = .next t ∧ Enters .ri s t))

/-- Every word of coprocessor z = 1, 2 or 3, whatever its bits 25:0, takes Coprocessor Unusable with that unit's
number when Cu[z] = 0, in either mode, unless it is a branch in a delay slot; when Cu[z] = 1, one that no row gives (bit
25 set, an rs or rt value that Tables 6 and 7 leave out, a move whose bits 10:0 are not zero) is refused (R220, R224,
R229, R340). Model's choice: log entries 21 and 30. Spec's own: the order and the refusal (R220's and R224's decision),
what entry leaves (log entry 26). -/
def Obligations.CoprocessorWordUnusable : Prop :=
  ∀ (z : CopUnit) (rest : BitVec 26) (s : State), z ≠ 0#2 →
    (s.srView.getLsbD (28 + z.toNat) = false →
      (s.inDelaySlot = true → rest.extractLsb' 21 5 = 0b01000#5 → rest.extractLsb' 16 5 ∉ [0b00000#5, 0b00001#5]) →
      ∃ t, runWord (0b0100#4 ++ z ++ rest) s = .next t ∧ Enters (.cpu z) s t) ∧
    (s.srView.getLsbD (28 + z.toNat) = true →
      (rest.getLsbD 25 = true ∨
        rest.extractLsb' 21 5 ∉ [0b00000#5, 0b00100#5, 0b01000#5] ∨
        (rest.extractLsb' 21 5 = 0b01000#5 ∧ rest.extractLsb' 16 5 ∉ [0b00000#5, 0b00001#5]) ∨
        (rest.extractLsb' 21 5 ∈ [0b00000#5, 0b00100#5] ∧ rest.extractLsb' 0 11 ≠ 0#11)) →
      runWord (0b0100#4 ++ z ++ rest) s = .refused (.coprocessorUndefined z))

/-! ### Memory -/

/-- A read after a write gives the value at the address written and what was there at every other address, the
canonical form is kept, and memories with equal contents are equal data (R56, R67). -/
def Obligations.MemoryReadAfterWrite : Prop :=
  (∀ (m : Memory) (p : Nat) (v : Byte), Memory.wf m = true → p < 4294967296 →
    Memory.wf (Memory.write m p v) = true ∧
    ∀ q, Memory.read (Memory.write m p v) q = if q = p then v else Memory.read m q) ∧
  (∀ m n : Memory, Memory.wf m = true → Memory.wf n = true →
    (∀ p, Memory.read m p = Memory.read n p) → m = n)

/-- Storing a word, a halfword or a byte and reading it back with the same width gives it, in both byte orders,
and a byte load of address A+i after a word store reads the byte that the byte order says (R58, R59). -/
def Obligations.StoredValueReadsBack : Prop :=
  ∀ (s : State) (be : Bool) (p v : Word), Memory.wf s.mem = true →
    Memory.readWord (s.storeBytes (spanCells be p 4 v)).mem be p = v ∧
    Memory.readHalf (s.storeBytes (spanCells be p 2 v)).mem be p = v.extractLsb' 0 16 ∧
    Memory.read (s.storeBytes (spanCells be p 1 v)).mem p.toNat = v.extractLsb' 0 8 ∧
    ∀ i : Fin 4, Memory.read (s.storeBytes (spanCells be p 4 v)).mem (p + BitVec.ofNat 32 i.val).toNat =
      if be then v.extractLsb' (24 - 8 * i.val) 8 else v.extractLsb' (8 * i.val) 8

/-- `BIU` under the default segments: kseg0 and kseg1 map to the low 512 megabytes, every other address to
itself, so three virtual addresses name one physical byte (R53). Spec's own: the default bases (R6, log entry 26). -/
def Obligations.SegmentsMapToLowMemory : Prop :=
  ∀ addr : Word,
    (0x80000000 ≤ addr.toNat → addr.toNat < 0xA0000000 → biu Config.default addr = addr - 0x80000000#32) ∧
    (0xA0000000 ≤ addr.toNat → addr.toNat < 0xC0000000 → biu Config.default addr = addr - 0xA0000000#32) ∧
    (addr.toNat < 0x80000000 ∨ 0xC0000000 ≤ addr.toNat → biu Config.default addr = addr) ∧
    (addr.toNat < 0x20000000 →
      biu Config.default (0x80000000#32 + addr) = addr ∧ biu Config.default (0xA0000000#32 + addr) = addr)

/-! ### Registers and the load delay -/

/-- Register 0 reads zero and discards writes; a register under a pending load reads as a free value, one draw for
each read; every other register reads as stored; the merge operand of LWL and LWR is the pending value (R21, R32,
R341, R116). Model's choice: one draw for each read (log entry 9). Spec's own: register 0 (R21, log entry 26). -/
def Obligations.LoadDelayAndRegisterZero : Prop :=
  ∀ (s : State) (q : Reg),
    (s.readRs 0#5 = 0#32 ∧ s.readRt 0#5 = 0#32 ∧ ∀ v, s.setReg 0#5 v = s) ∧
    (q ≠ 0#5 → ∀ v, s.loadPending = some (q, v) →
      s.readRs q = Config.freeWord s.freeTick 0 ∧ s.readRt q = Config.freeWord s.freeTick 1 ∧ s.settled q = v) ∧
    ((∀ v, s.loadPending ≠ some (q, v)) →
      s.readRs q = s.gprRead q ∧ s.readRt q = s.gprRead q ∧ s.settled q = s.gprRead q) ∧
    (q ≠ 0#5 → ∀ v, (s.setReg q v).gprRead q = v) ∧
    (∀ r v, r ≠ q → (s.setReg r v).gprRead q = s.gprRead q)

/-- A loaded value lands after the instruction that follows the load, whatever the two are, unless that instruction
writes the same register, and then its write wins: the register does not depend on the loaded value, unless the
instruction was cut off by its exception, and then the value has landed; nothing is pending after it but what it has
itself made pending (R32, R124). ADDIU is written out. Spec's own: the later write wins, and the value lands at an
exception (R32's decision). -/
def Obligations.LoadLandsAfterNextInstruction : Prop :=
  ∀ (i j : Instr) (s t u : State) (x : Access) (r : Reg) (v : Word),
    s.accessOf i = some x → x.kind = .load → exec i s = .next t → t.loadPending = some (r, v) →
    exec j t = .next u →
    (destination j ≠ some r → u.gprRead r = v) ∧
    (destination j = some r →
      ((∃ e, Enters e t u) ∧ u.gprRead r = v) ∨
      ∀ v', ∃ u', exec j { t with loadPending := some (r, v') } = .next u' ∧ u'.gprRead r = u.gprRead r) ∧
    (∀ q w, u.loadPending = some (q, w) → destination j = some q) ∧
    (∀ rs rd imm, j = .addiu rs rd imm →
      u.loadPending = none ∧ (rd = r → u.gprRead r = t.readRs rs + imm.signExtend 32))

/-! ### Computational instructions -/

/-- ADDU: encoding, the sum modulo 2^32 in rd, everything else as it was, no exception. The source's page is cut off:
R143 marks this reading as derived from the pages of ADD, SUBU and ADDIU. -/
def Obligations.AdduResult : Prop :=
  ∀ (s : State) (rs rt rd : Reg),
    Encodes (0b000000#6 ++ rs ++ rt ++ rd ++ 0b00000#5 ++ 0b100001#6) (.addu rs rt rd) ∧
    ∃ t, exec (.addu rs rt rd) s = .next t ∧ ComputesInto s t rd (s.readRs rs + s.readRt rt)

/-- SUBU, AND, OR, XOR, NOR, SLT, SLTU: encoding, result in rd, everything else as it was, no exception. -/
def Obligations.RegisterComputationResults : Prop :=
  ∀ (s : State) (rs rt rd : Reg),
    (Encodes (0b000000#6 ++ rs ++ rt ++ rd ++ 0b00000#5 ++ 0b100011#6) (.subu rs rt rd) ∧
      ∃ t, exec (.subu rs rt rd) s = .next t ∧ ComputesInto s t rd (s.readRs rs - s.readRt rt)) ∧
    (Encodes (0b000000#6 ++ rs ++ rt ++ rd ++ 0b00000#5 ++ 0b100100#6) (.and rs rt rd) ∧
      ∃ t, exec (.and rs rt rd) s = .next t ∧ ComputesInto s t rd (s.readRs rs &&& s.readRt rt)) ∧
    (Encodes (0b000000#6 ++ rs ++ rt ++ rd ++ 0b00000#5 ++ 0b100101#6) (.or rs rt rd) ∧
      ∃ t, exec (.or rs rt rd) s = .next t ∧ ComputesInto s t rd (s.readRs rs ||| s.readRt rt)) ∧
    (Encodes (0b000000#6 ++ rs ++ rt ++ rd ++ 0b00000#5 ++ 0b100110#6) (.xor rs rt rd) ∧
      ∃ t, exec (.xor rs rt rd) s = .next t ∧ ComputesInto s t rd (s.readRs rs ^^^ s.readRt rt)) ∧
    (Encodes (0b000000#6 ++ rs ++ rt ++ rd ++ 0b00000#5 ++ 0b100111#6) (.nor rs rt rd) ∧
      ∃ t, exec (.nor rs rt rd) s = .next t ∧ ComputesInto s t rd (~~~(s.readRs rs ||| s.readRt rt))) ∧
    (Encodes (0b000000#6 ++ rs ++ rt ++ rd ++ 0b00000#5 ++ 0b101010#6) (.slt rs rt rd) ∧
      ∃ t, exec (.slt rs rt rd) s = .next t ∧
        ComputesInto s t rd (if (s.readRs rs).toInt < (s.readRt rt).toInt then 1#32 else 0#32)) ∧
    (Encodes (0b000000#6 ++ rs ++ rt ++ rd ++ 0b00000#5 ++ 0b101011#6) (.sltu rs rt rd) ∧
      ∃ t, exec (.sltu rs rt rd) s = .next t ∧
        ComputesInto s t rd (if (s.readRs rs).toNat < (s.readRt rt).toNat then 1#32 else 0#32))

/-- ADDIU, SLTI, SLTIU, ANDI, ORI, XORI, LUI: encoding, result in rt, everything else as it was, no exception. -/
def Obligations.ImmediateComputationResults : Prop :=
  ∀ (s : State) (rs rt : Reg) (imm : Imm),
    (Encodes (0b001001#6 ++ rs ++ rt ++ imm) (.addiu rs rt imm) ∧
      ∃ t, exec (.addiu rs rt imm) s = .next t ∧ ComputesInto s t rt (s.readRs rs + imm.signExtend 32)) ∧
    (Encodes (0b001010#6 ++ rs ++ rt ++ imm) (.slti rs rt imm) ∧
      ∃ t, exec (.slti rs rt imm) s = .next t ∧
        ComputesInto s t rt (if (s.readRs rs).toInt < (imm.signExtend 32).toInt then 1#32 else 0#32)) ∧
    (Encodes (0b001011#6 ++ rs ++ rt ++ imm) (.sltiu rs rt imm) ∧
      ∃ t, exec (.sltiu rs rt imm) s = .next t ∧
        ComputesInto s t rt (if (s.readRs rs).toNat < (imm.signExtend 32).toNat then 1#32 else 0#32)) ∧
    (Encodes (0b001100#6 ++ rs ++ rt ++ imm) (.andi rs rt imm) ∧
      ∃ t, exec (.andi rs rt imm) s = .next t ∧ ComputesInto s t rt (s.readRs rs &&& imm.zeroExtend 32)) ∧
    (Encodes (0b001101#6 ++ rs ++ rt ++ imm) (.ori rs rt imm) ∧
      ∃ t, exec (.ori rs rt imm) s = .next t ∧ ComputesInto s t rt (s.readRs rs ||| imm.zeroExtend 32)) ∧
    (Encodes (0b001110#6 ++ rs ++ rt ++ imm) (.xori rs rt imm) ∧
      ∃ t, exec (.xori rs rt imm) s = .next t ∧ ComputesInto s t rt (s.readRs rs ^^^ imm.zeroExtend 32)) ∧
    (Encodes (0b001111#6 ++ 0b00000#5 ++ rt ++ imm) (.lui rt imm) ∧
      ∃ t, exec (.lui rt imm) s = .next t ∧ ComputesInto s t rt (imm ++ 0#16))

/-- SLL, SRL, SRA, SLLV, SRLV, SRAV: encoding, and the result bit by bit; the variable forms use the low five bits
of rs; everything else as it was, no exception. -/
def Obligations.ShiftResults : Prop :=
  ∀ (s : State) (rs rt rd : Reg) (sa : BitVec 5),
    (Encodes (0b000000#6 ++ 0b00000#5 ++ rt ++ rd ++ sa ++ 0b000000#6) (.sll rt rd sa) ∧
      ∃ t v, exec (.sll rt rd sa) s = .next t ∧ ComputesInto s t rd v ∧ ∀ i, i < 32 →
        v.getLsbD i = if i < sa.toNat then false else (s.readRt rt).getLsbD (i - sa.toNat)) ∧
    (Encodes (0b000000#6 ++ 0b00000#5 ++ rt ++ rd ++ sa ++ 0b000010#6) (.srl rt rd sa) ∧
      ∃ t v, exec (.srl rt rd sa) s = .next t ∧ ComputesInto s t rd v ∧ ∀ i, i < 32 →
        v.getLsbD i = if i + sa.toNat < 32 then (s.readRt rt).getLsbD (i + sa.toNat) else false) ∧
    (Encodes (0b000000#6 ++ 0b00000#5 ++ rt ++ rd ++ sa ++ 0b000011#6) (.sra rt rd sa) ∧
      ∃ t v, exec (.sra rt rd sa) s = .next t ∧ ComputesInto s t rd v ∧ ∀ i, i < 32 →
        v.getLsbD i = (s.readRt rt).getLsbD (if i + sa.toNat < 32 then i + sa.toNat else 31)) ∧
    (Encodes (0b000000#6 ++ rs ++ rt ++ rd ++ 0b00000#5 ++ 0b000100#6) (.sllv rs rt rd) ∧
      ∃ t v, exec (.sllv rs rt rd) s = .next t ∧ ComputesInto s t rd v ∧ ∀ i, i < 32 →
        v.getLsbD i = if i < (s.readRs rs).toNat % 32 then false
          else (s.readRt rt).getLsbD (i - (s.readRs rs).toNat % 32)) ∧
    (Encodes (0b000000#6 ++ rs ++ rt ++ rd ++ 0b00000#5 ++ 0b000110#6) (.srlv rs rt rd) ∧
      ∃ t v, exec (.srlv rs rt rd) s = .next t ∧ ComputesInto s t rd v ∧ ∀ i, i < 32 →
        v.getLsbD i = if i + (s.readRs rs).toNat % 32 < 32
          then (s.readRt rt).getLsbD (i + (s.readRs rs).toNat % 32) else false) ∧
    (Encodes (0b000000#6 ++ rs ++ rt ++ rd ++ 0b00000#5 ++ 0b000111#6) (.srav rs rt rd) ∧
      ∃ t v, exec (.srav rs rt rd) s = .next t ∧ ComputesInto s t rd v ∧ ∀ i, i < 32 →
        v.getLsbD i = (s.readRt rt).getLsbD
          (if i + (s.readRs rs).toNat % 32 < 32 then i + (s.readRs rs).toNat % 32 else 31))

/-- The overflow predicates in their three forms: the exact sum or difference is no 32-bit two's complement number;
the signs; the two highest-order carries differ (R12). Spec's own: R12 marks the equivalence of the three forms as
derived. -/
def Obligations.OverflowIsCarryDisagreement : Prop :=
  ∀ a b : Word,
    (ovfAdd a b = true ↔ a.toInt + b.toInt < -2147483648 ∨ 2147483647 < a.toInt + b.toInt) ∧
    (ovfAdd a b = true ↔ a.getLsbD 31 = b.getLsbD 31 ∧ (a + b).getLsbD 31 ≠ a.getLsbD 31) ∧
    (ovfAdd a b = true ↔ decide (4294967296 ≤ a.toNat + b.toNat) ≠
      decide (2147483648 ≤ a.toNat % 2147483648 + b.toNat % 2147483648)) ∧
    (ovfSub a b = true ↔ a.toInt - b.toInt < -2147483648 ∨ 2147483647 < a.toInt - b.toInt) ∧
    (ovfSub a b = true ↔ a.getLsbD 31 ≠ b.getLsbD 31 ∧ (a - b).getLsbD 31 ≠ a.getLsbD 31) ∧
    (ovfSub a b = true ↔ decide (4294967296 ≤ a.toNat + (~~~b).toNat + 1) ≠
      decide (2147483648 ≤ a.toNat % 2147483648 + (~~~b).toNat % 2147483648 + 1))

/-- ADD, ADDI, SUB: encoding; where the exact result is a 32-bit two's complement number it is written and
everything else is as it was; otherwise the Overflow Exception is taken and the destination keeps its value. Spec's
own: what entry leaves (R290, log entry 26). -/
def Obligations.AddSubResultOrOverflow : Prop :=
  ∀ (s : State) (rs rt rd : Reg) (imm : Imm),
    (Encodes (0b000000#6 ++ rs ++ rt ++ rd ++ 0b00000#5 ++ 0b100000#6) (.add rs rt rd) ∧
      (∀ n, n = (s.readRs rs).toInt + (s.readRt rt).toInt →
        (-2147483648 ≤ n ∧ n ≤ 2147483647 →
          ∃ t v, exec (.add rs rt rd) s = .next t ∧ ComputesInto s t rd v ∧ v.toInt = n) ∧
        (n < -2147483648 ∨ 2147483647 < n → ∃ t, exec (.add rs rt rd) s = .next t ∧ Enters .ov s t))) ∧
    (Encodes (0b001000#6 ++ rs ++ rt ++ imm) (.addi rs rt imm) ∧
      (∀ n, n = (s.readRs rs).toInt + imm.toInt →
        (-2147483648 ≤ n ∧ n ≤ 2147483647 →
          ∃ t v, exec (.addi rs rt imm) s = .next t ∧ ComputesInto s t rt v ∧ v.toInt = n) ∧
        (n < -2147483648 ∨ 2147483647 < n → ∃ t, exec (.addi rs rt imm) s = .next t ∧ Enters .ov s t))) ∧
    (Encodes (0b000000#6 ++ rs ++ rt ++ rd ++ 0b00000#5 ++ 0b100010#6) (.sub rs rt rd) ∧
      (∀ n, n = (s.readRs rs).toInt - (s.readRt rt).toInt →
        (-2147483648 ≤ n ∧ n ≤ 2147483647 →
          ∃ t v, exec (.sub rs rt rd) s = .next t ∧ ComputesInto s t rd v ∧ v.toInt = n) ∧
        (n < -2147483648 ∨ 2147483647 < n → ∃ t, exec (.sub rs rt rd) s = .next t ∧ Enters .ov s t)))

/-! ### Multiply, divide, HI and LO -/

/-- MULT and MULTU, where neither of the two preceding instructions is MFHI or MFLO: encoding (as
printed), the exact 64-bit product in HI and LO, no exception, the general registers as they were. -/
def Obligations.MultiplyResults : Prop :=
  ∀ (s : State) (rs rt : Reg),
    decode .asPrinted (0b000000#6 ++ rs ++ rt ++ 0b0000000000#10 ++ 0b001110#6) = .instr (.mult rs rt) ∧
    decode .asPrinted (0b000000#6 ++ rs ++ rt ++ 0b0000000000#10 ++ 0b011000#6) = .instr (.multu rs rt) ∧
    (s.mfHi = none → s.mfLo = none →
      (∃ t, exec (.mult rs rt) s = .next t ∧ Proceeds s t ∧ SameStatus s t ∧ SameCop s t ∧ t.mdFresh = true ∧
        (t.hi ++ t.lo : BitVec 64).toInt = (s.readRs rs).toInt * (s.readRt rt).toInt) ∧
      (∃ t, exec (.multu rs rt) s = .next t ∧ Proceeds s t ∧ SameStatus s t ∧ SameCop s t ∧ t.mdFresh = true ∧
        (t.hi ++ t.lo : BitVec 64).toNat = (s.readRs rs).toNat * (s.readRt rt).toNat))

/-- DIV and DIVU, where neither of the two preceding instructions is MFHI or MFLO and the division is no corner of
R187: encoding, quotient in LO and remainder in HI with dividend = quotient * divisor + remainder, the remainder
smaller than the divisor and of the dividend's sign, no exception, the general registers as they were. Spec's own:
the rounding of DIV (R185 "from general knowledge", log entry 27). -/
def Obligations.DivideResults : Prop :=
  ∀ (s : State) (rs rt : Reg),
    Encodes (0b000000#6 ++ rs ++ rt ++ 0b0000000000#10 ++ 0b011010#6) (.div rs rt) ∧
    Encodes (0b000000#6 ++ rs ++ rt ++ 0b0000000000#10 ++ 0b011011#6) (.divu rs rt) ∧
    (s.mfHi = none → s.mfLo = none → s.readRt rt ≠ 0#32 →
      (¬ (s.readRs rs = 0x80000000#32 ∧ s.readRt rt = 0xFFFFFFFF#32) →
        ∃ t, exec (.div rs rt) s = .next t ∧ Proceeds s t ∧ SameStatus s t ∧ SameCop s t ∧ t.mdFresh = true ∧
          (s.readRs rs).toInt = t.lo.toInt * (s.readRt rt).toInt + t.hi.toInt ∧
          t.hi.toInt.natAbs < (s.readRt rt).toInt.natAbs ∧
          (0 ≤ (s.readRs rs).toInt → 0 ≤ t.hi.toInt) ∧ ((s.readRs rs).toInt ≤ 0 → t.hi.toInt ≤ 0)) ∧
      (∃ t, exec (.divu rs rt) s = .next t ∧ Proceeds s t ∧ SameStatus s t ∧ SameCop s t ∧ t.mdFresh = true ∧
        (s.readRs rs).toNat = t.lo.toNat * (s.readRt rt).toNat + t.hi.toNat ∧
        t.hi.toNat < (s.readRt rt).toNat))

/-- The division corners complete without an exception: with `DIV_NUMERICS` undefined, HI and LO take free values;
with r3000, the values R187 reports. Spec's own: R187's decision for DIV and its reported values. Model's choice:
the draws (log entry 9). -/
def Obligations.DivisionCorners : Prop :=
  ∀ (s : State) (rs rt : Reg), s.mfHi = none → s.mfLo = none →
    (s.readRt rt = 0#32 ∨ (s.readRs rs = 0x80000000#32 ∧ s.readRt rt = 0xFFFFFFFF#32) →
      ∃ t, exec (.div rs rt) s = .next t ∧ Proceeds s t ∧ SameStatus s t ∧ SameCop s t ∧ t.mdFresh = true ∧
        (s.cfg.divNumerics = .undefined →
          t.hi = Config.freeWord s.freeTick 3 ∧ t.lo = Config.freeWord s.freeTick 2) ∧
        (s.cfg.divNumerics = .r3000 →
          (s.readRt rt = 0#32 → t.hi = s.readRs rs ∧
            t.lo = if 0 ≤ (s.readRs rs).toInt then 0xFFFFFFFF#32 else 0x00000001#32) ∧
          (s.readRt rt ≠ 0#32 → t.hi = 0#32 ∧ t.lo = 0x80000000#32))) ∧
    (s.readRt rt = 0#32 →
      ∃ t, exec (.divu rs rt) s = .next t ∧ Proceeds s t ∧ SameStatus s t ∧ SameCop s t ∧ t.mdFresh = true ∧
        (s.cfg.divNumerics = .undefined →
          t.hi = Config.freeWord s.freeTick 3 ∧ t.lo = Config.freeWord s.freeTick 2) ∧
        (s.cfg.divNumerics = .r3000 → t.hi = s.readRs rs ∧ t.lo = 0xFFFFFFFF#32))

/-- MFHI, MFLO, MTHI, MTLO: encoding and effect. A move from HI or LO reads it at once, starts the two-instruction
window and clears `md_fresh`; a move to HI (LO) outside that window writes it, and the other of the two becomes a
free value if a multiply or divide result has not been touched. Model's choice: the draws (log entry 9). -/
def Obligations.HiLoMoveResults : Prop :=
  ∀ (s : State) (r : Reg),
    (Encodes (0b000000#6 ++ 0b0000000000#10 ++ r ++ 0b00000#5 ++ 0b010000#6) (.mfhi r) ∧
      ∃ t, exec (.mfhi r) s = .next t ∧ t.mfHi = some { age := 0, rd := r } ∧ t.mdFresh = false ∧
        t.mfLo = ageMf s.mfLo ∧
        ComputesInto s { t with mfHi := ageMf s.mfHi, mdFresh := s.mdFresh } r s.hi) ∧
    (Encodes (0b000000#6 ++ 0b0000000000#10 ++ r ++ 0b00000#5 ++ 0b010010#6) (.mflo r) ∧
      ∃ t, exec (.mflo r) s = .next t ∧ t.mfLo = some { age := 0, rd := r } ∧ t.mdFresh = false ∧
        t.mfHi = ageMf s.mfHi ∧
        ComputesInto s { t with mfLo := ageMf s.mfLo, mdFresh := s.mdFresh } r s.lo) ∧
    (Encodes (0b000000#6 ++ r ++ 0b000000000000000#15 ++ 0b010001#6) (.mthi r) ∧
      (s.mfHi = none → ∃ t, exec (.mthi r) s = .next t ∧ Proceeds s t ∧ SameStatus s t ∧ SameCop s t ∧
        t.mdFresh = false ∧ t.hi = s.readRs r ∧
        t.lo = if s.mdFresh then Config.freeWord s.freeTick 2 else s.lo)) ∧
    (Encodes (0b000000#6 ++ r ++ 0b000000000000000#15 ++ 0b010011#6) (.mtlo r) ∧
      (s.mfLo = none → ∃ t, exec (.mtlo r) s = .next t ∧ Proceeds s t ∧ SameStatus s t ∧ SameCop s t ∧
        t.mdFresh = false ∧ t.lo = s.readRs r ∧
        t.hi = if s.mdFresh then Config.freeWord s.freeTick 3 else s.hi))

/-- Writing HI or LO too soon after reading it is refused: MULT, MULTU, DIV, DIVU in the window of MFHI or of MFLO,
MTHI in that of MFHI, MTLO in that of MFLO; and the window is of two instructions: a multiply as the first or the
second instruction after MFHI is refused, as the third it completes (R33, R344). Spec's own: the refusal (R344's
decision). -/
def Obligations.HiLoWrittenTooSoonRefused : Prop :=
  (∀ (s : State) (rs rt : Reg),
    (s.mfHi ≠ none ∨ s.mfLo ≠ none →
      exec (.mult rs rt) s = .refused .hiLoWriteTooSoon ∧ exec (.multu rs rt) s = .refused .hiLoWriteTooSoon ∧
      exec (.div rs rt) s = .refused .hiLoWriteTooSoon ∧ exec (.divu rs rt) s = .refused .hiLoWriteTooSoon) ∧
    (s.mfHi ≠ none → exec (.mthi rs) s = .refused .hiLoWriteTooSoon) ∧
    (s.mfLo ≠ none → exec (.mtlo rs) s = .refused .hiLoWriteTooSoon)) ∧
  (∀ (s : State) (rd rs rt r q : Reg) (i j : Imm), s.mfLo = none →
    ∃ a b c t, exec (.mfhi rd) s = .next a ∧ exec (.addiu r q i) a = .next b ∧ exec (.ori r q j) b = .next c ∧
      exec (.mult rs rt) a = .refused .hiLoWriteTooSoon ∧ exec (.mult rs rt) b = .refused .hiLoWriteTooSoon ∧
      exec (.mult rs rt) c = .next t)

/-! ### Loads and stores -/

/-- LB, LBU, LH, LHU, LW, where R110's checks pass: encoding, the value by byte order pending for rt, everything
else as it was; the address is `sext(offset) + x[base]`, mapped by the BIU. Model's choice: log entries 24 and 33 in
what is admitted. -/
def Obligations.LoadResults : Prop :=
  ∀ (s : State) (base rt : Reg) (off : Imm) (addr p : Word), addr = off.signExtend 32 + s.readRs base →
    p = biu s.cfg addr →
    (Encodes (0b100000#6 ++ base ++ rt ++ off) (.lb base rt off) ∧
      (s.Admits .load false addr [p.toNat] →
        ∃ t, exec (.lb base rt off) s = .next t ∧
          DeliversTo s t rt ((Memory.read s.mem p.toNat).signExtend 32) true)) ∧
    (Encodes (0b100100#6 ++ base ++ rt ++ off) (.lbu base rt off) ∧
      (s.Admits .load false addr [p.toNat] →
        ∃ t, exec (.lbu base rt off) s = .next t ∧
          DeliversTo s t rt ((Memory.read s.mem p.toNat).zeroExtend 32) true)) ∧
    (∀ h : Half, h = (if s.cfg.bigEndian
        then Memory.read s.mem p.toNat ++ Memory.read s.mem (p + 1#32).toNat
        else Memory.read s.mem (p + 1#32).toNat ++ Memory.read s.mem p.toNat) →
      (Encodes (0b100001#6 ++ base ++ rt ++ off) (.lh base rt off) ∧
        (s.Admits .load (addr.getLsbD 0) addr [p.toNat, (p + 1#32).toNat] →
          ∃ t, exec (.lh base rt off) s = .next t ∧ DeliversTo s t rt (h.signExtend 32) true)) ∧
      (Encodes (0b100101#6 ++ base ++ rt ++ off) (.lhu base rt off) ∧
        (s.Admits .load (addr.getLsbD 0) addr [p.toNat, (p + 1#32).toNat] →
          ∃ t, exec (.lhu base rt off) s = .next t ∧ DeliversTo s t rt (h.zeroExtend 32) true))) ∧
    (∀ w : Word, w = (if s.cfg.bigEndian
        then Memory.read s.mem p.toNat ++ Memory.read s.mem (p + 1#32).toNat ++
          Memory.read s.mem (p + 2#32).toNat ++ Memory.read s.mem (p + 3#32).toNat
        else Memory.read s.mem (p + 3#32).toNat ++ Memory.read s.mem (p + 2#32).toNat ++
          Memory.read s.mem (p + 1#32).toNat ++ Memory.read s.mem p.toNat) →
      Encodes (0b100011#6 ++ base ++ rt ++ off) (.lw base rt off) ∧
      (s.Admits .load (addr.extractLsb' 0 2 != 0#2) addr
          [p.toNat, (p + 1#32).toNat, (p + 2#32).toNat, (p + 3#32).toNat] →
        ∃ t, exec (.lw base rt off) s = .next t ∧ DeliversTo s t rt w true))

/-- LWL and LWR, where R110's checks pass: encoding, the bytes of the aligned word merged into the old value of rt
(which the pending load bypasses) as R122 tabulates them, pending for rt, everything else as it was. `A` is the
aligned physical word, `a` the low two address bits. Model's choice: log entries 24 and 33 in what is admitted. -/
def Obligations.UnalignedLoadResults : Prop :=
  ∀ (s : State) (base rt : Reg) (off : Imm) (addr A : Word) (a : Nat), addr = off.signExtend 32 + s.readRs base →
    A = biu s.cfg addr &&& 0xFFFFFFFC#32 → a = addr.toNat % 4 →
    (Encodes (0b100010#6 ++ base ++ rt ++ off) (.lwl base rt off) ∧
      (s.Admits .load false addr
          (laneBytes s.cfg.bigEndian (biu s.cfg addr) 0 (laneIndex s.cfg.bigEndian addr)) →
        ∃ t v, exec (.lwl base rt off) s = .next t ∧ DeliversTo s t rt v true ∧ ∀ j, j < 4 →
          v.extractLsb' (8 * (3 - j)) 8 =
            if s.cfg.bigEndian then
              (if a + j < 4 then Memory.read s.mem (A + BitVec.ofNat 32 (a + j)).toNat
                else (s.settled rt).extractLsb' (8 * (3 - j)) 8)
            else
              (if j ≤ a then Memory.read s.mem (A + BitVec.ofNat 32 (a - j)).toNat
                else (s.settled rt).extractLsb' (8 * (3 - j)) 8))) ∧
    (Encodes (0b100110#6 ++ base ++ rt ++ off) (.lwr base rt off) ∧
      (s.Admits .load false addr
          (laneBytes s.cfg.bigEndian (biu s.cfg addr) (laneIndex s.cfg.bigEndian addr) 3) →
        ∃ t v, exec (.lwr base rt off) s = .next t ∧ DeliversTo s t rt v true ∧ ∀ j, j < 4 →
          v.extractLsb' (8 * j) 8 =
            if s.cfg.bigEndian then
              (if j ≤ a then Memory.read s.mem (A + BitVec.ofNat 32 (a - j)).toNat
                else (s.settled rt).extractLsb' (8 * j) 8)
            else
              (if a + j < 4 then Memory.read s.mem (A + BitVec.ofNat 32 (a + j)).toNat
                else (s.settled rt).extractLsb' (8 * j) 8)))

/-- The pair LWL rt, off(base) then LWR rt, off+3(base) of a big-endian machine, one directly after the other and
with base not rt, loads the unaligned word at the first address into rt (R117, R122; the bypass of R116). Model's
choice: log entries 24 and 33 in what is admitted. -/
def Obligations.UnalignedPairLoadsWord : Prop :=
  ∀ (s : State) (base rt : Reg) (off : Imm) (addr p : Word), s.cfg.bigEndian = true → s.mtcShadow = none →
    rt ≠ 0#5 → base ≠ rt → s.isPending base = false → addr = off.signExtend 32 + s.gprRead base →
    (off + 3#16).signExtend 32 = off.signExtend 32 + 3#32 →
    p = biu s.cfg addr → p.extractLsb' 0 2 = addr.extractLsb' 0 2 → biu s.cfg (addr + 3#32) = p + 3#32 →
    s.Admits .load false addr (laneBytes true p 0 (laneIndex true addr)) →
    s.Admits .load false (addr + 3#32) (laneBytes true (p + 3#32) (laneIndex true (addr + 3#32)) 3) →
    ∃ t u, exec (.lwl base rt off) s = .next t ∧ exec (.lwr base rt (off + 3#16)) t = .next u ∧
      u.loadPending = some (rt, Memory.read s.mem p.toNat ++ Memory.read s.mem (p + 1#32).toNat ++
        Memory.read s.mem (p + 2#32).toNat ++ Memory.read s.mem (p + 3#32).toNat)

/-- SB, SH, SW, where R110's checks pass: encoding, the bytes of rt stored by byte order at the mapped address and
nowhere else, everything else as it was. Model's choice: log entries 24, 25 and 33. -/
def Obligations.StoreResults : Prop :=
  ∀ (s : State) (base rt : Reg) (off : Imm) (addr p v : Word), Memory.wf s.mem = true →
    addr = off.signExtend 32 + s.readRs base → p = biu s.cfg addr → v = s.readRt rt →
    (Encodes (0b101000#6 ++ base ++ rt ++ off) (.sb base rt off) ∧
      (s.Admits .store false addr [p.toNat] →
        ∃ t, exec (.sb base rt off) s = .next t ∧ StoresAt s t [(p.toNat, v.extractLsb' 0 8)])) ∧
    (Encodes (0b101001#6 ++ base ++ rt ++ off) (.sh base rt off) ∧
      (s.Admits .store (addr.getLsbD 0) addr [p.toNat, (p + 1#32).toNat] →
        ∃ t, exec (.sh base rt off) s = .next t ∧ StoresAt s t (if s.cfg.bigEndian
          then [(p.toNat, v.extractLsb' 8 8), ((p + 1#32).toNat, v.extractLsb' 0 8)]
          else [(p.toNat, v.extractLsb' 0 8), ((p + 1#32).toNat, v.extractLsb' 8 8)]))) ∧
    (Encodes (0b101011#6 ++ base ++ rt ++ off) (.sw base rt off) ∧
      (s.Admits .store (addr.extractLsb' 0 2 != 0#2) addr
          [p.toNat, (p + 1#32).toNat, (p + 2#32).toNat, (p + 3#32).toNat] →
        ∃ t, exec (.sw base rt off) s = .next t ∧ StoresAt s t (if s.cfg.bigEndian
          then [(p.toNat, v.extractLsb' 24 8), ((p + 1#32).toNat, v.extractLsb' 16 8),
            ((p + 2#32).toNat, v.extractLsb' 8 8), ((p + 3#32).toNat, v.extractLsb' 0 8)]
          else [(p.toNat, v.extractLsb' 0 8), ((p + 1#32).toNat, v.extractLsb' 8 8),
            ((p + 2#32).toNat, v.extractLsb' 16 8), ((p + 3#32).toNat, v.extractLsb' 24 8)])))

/-- SWL and SWR, where R110's checks pass: encoding, the bytes of rt stored as R122 tabulates them (`A` the aligned
physical word, `a` the low two address bits), every byte outside the lanes stored as it was, everything else as it
was. Model's choice: log entries 24, 25 and 33. -/
def Obligations.UnalignedStoreResults : Prop :=
  ∀ (s : State) (base rt : Reg) (off : Imm) (addr A v : Word) (a lane : Nat), Memory.wf s.mem = true →
    addr = off.signExtend 32 + s.readRs base → A = biu s.cfg addr &&& 0xFFFFFFFC#32 → v = s.readRt rt →
    a = addr.toNat % 4 → lane = laneIndex s.cfg.bigEndian addr →
    (Encodes (0b101010#6 ++ base ++ rt ++ off) (.swl base rt off) ∧
      (s.Admits .store false addr (laneBytes s.cfg.bigEndian (biu s.cfg addr) 0 lane) →
        ∃ t, exec (.swl base rt off) s = .next t ∧
          StoresAt s t (laneCells s.cfg.bigEndian (biu s.cfg addr) 0 lane (storeLeftData lane v)) ∧
          (∀ j, j < 4 →
            (s.cfg.bigEndian = true → a + j < 4 →
              Memory.read t.mem (A + BitVec.ofNat 32 (a + j)).toNat = v.extractLsb' (8 * (3 - j)) 8) ∧
            (s.cfg.bigEndian = false → j ≤ a →
              Memory.read t.mem (A + BitVec.ofNat 32 (a - j)).toNat = v.extractLsb' (8 * (3 - j)) 8)))) ∧
    (Encodes (0b101110#6 ++ base ++ rt ++ off) (.swr base rt off) ∧
      (s.Admits .store false addr (laneBytes s.cfg.bigEndian (biu s.cfg addr) lane 3) →
        ∃ t, exec (.swr base rt off) s = .next t ∧
          StoresAt s t (laneCells s.cfg.bigEndian (biu s.cfg addr) lane 3 (storeRightData lane v)) ∧
          (∀ j, j < 4 →
            (s.cfg.bigEndian = true → j ≤ a →
              Memory.read t.mem (A + BitVec.ofNat 32 (a - j)).toNat = v.extractLsb' (8 * j) 8) ∧
            (s.cfg.bigEndian = false → a + j < 4 →
              Memory.read t.mem (A + BitVec.ofNat 32 (a + j)).toNat = v.extractLsb' (8 * j) 8))))

/-- A load or store that is misaligned for its instruction, or a user-mode one at or above the user limit, takes
Address Error (AdEL or AdES) with BadVAddr = the effective address: no register, no memory is written (R61, R64,
R110, R285). Spec's own: that nothing is written (R110's decision) and what entry leaves (log entry 26). -/
def Obligations.DataAddressErrors : Prop :=
  ∀ (s : State) (i : Instr) (x : Access), s.accessOf i = some x → (x.misaligned = true ∨ s.beyondLimit x.addr) →
    ∃ t, exec i s = .next t ∧ Enters (addressError x.kind x.addr) s t

/-- An aligned and permitted load or store on which the bus reports an error takes Bus Error: no register, no memory is
written (R65, R110, R286). Model's choice: log entry 39 for a store's memory, which R110's decision D21 leaves unchanged
while R65, R286 and R295 call it unspecified; log entry 33. Spec's own: that nothing is written (R110's decision) and
what entry leaves (log entry 26). -/
def Obligations.DataBusErrors : Prop :=
  ∀ (s : State) (i : Instr) (x : Access), s.accessOf i = some x → x.misaligned = false → ¬ s.beyondLimit x.addr →
    isBusError s.cfg x.kind (biu s.cfg x.addr) = true →
    ∃ t, exec i s = .next t ∧ Enters .dbe s t

/-- An aligned and permitted load or store that the bus does not answer with an error, and of which some byte is
outside the platform's map, has no meaning: the model's one fault (R54). Model's choice: log entry 24. -/
def Obligations.UnmappedAccessFaults : Prop :=
  ∀ (s : State) (i : Instr) (x : Access), s.accessOf i = some x → x.misaligned = false → ¬ s.beyondLimit x.addr →
    isBusError s.cfg x.kind (biu s.cfg x.addr) = false → (∃ p ∈ x.bytes, isMapped s.cfg x.kind p = false) →
    exec i s = .fault (.unmapped x.kind (biu s.cfg x.addr))

/-- A load directly after a store of the same width to the same address returns the value stored, from whatever base
and offset the address is formed: LW after SW, LH and LHU after SH, LB and LBU after SB (R67, R343). Spec's own:
R343's decision. Model's choice: log entries 24 and 33 in what is admitted. -/
def Obligations.LoadSeesPrecedingStore : Prop :=
  ∀ (s : State) (base rt : Reg) (off : Imm) (addr p v : Word), Memory.wf s.mem = true → s.mtcShadow = none →
    addr = off.signExtend 32 + s.readRs base → p = biu s.cfg addr → v = s.readRt rt →
    (s.Admits .store (addr.extractLsb' 0 2 != 0#2) addr (spanBytes p 4) →
      s.Admits .load (addr.extractLsb' 0 2 != 0#2) addr (spanBytes p 4) →
      ∃ t, exec (.sw base rt off) s = .next t ∧
        ∀ (b rd : Reg) (o : Imm), rd ≠ 0#5 → o.signExtend 32 + t.readRs b = addr →
          ∃ u, exec (.lw b rd o) t = .next u ∧ u.loadPending = some (rd, v)) ∧
    (s.Admits .store (addr.getLsbD 0) addr (spanBytes p 2) →
      s.Admits .load (addr.getLsbD 0) addr (spanBytes p 2) →
      ∃ t, exec (.sh base rt off) s = .next t ∧
        ∀ (b rd : Reg) (o : Imm), rd ≠ 0#5 → o.signExtend 32 + t.readRs b = addr →
          (∃ u, exec (.lh b rd o) t = .next u ∧
            u.loadPending = some (rd, (v.extractLsb' 0 16).signExtend 32)) ∧
          (∃ u, exec (.lhu b rd o) t = .next u ∧
            u.loadPending = some (rd, (v.extractLsb' 0 16).zeroExtend 32))) ∧
    (s.Admits .store false addr (spanBytes p 1) → s.Admits .load false addr (spanBytes p 1) →
      ∃ t, exec (.sb base rt off) s = .next t ∧
        ∀ (b rd : Reg) (o : Imm), rd ≠ 0#5 → o.signExtend 32 + t.readRs b = addr →
          (∃ u, exec (.lb b rd o) t = .next u ∧
            u.loadPending = some (rd, (v.extractLsb' 0 8).signExtend 32)) ∧
          (∃ u, exec (.lbu b rd o) t = .next u ∧
            u.loadPending = some (rd, (v.extractLsb' 0 8).zeroExtend 32)))

/-- After SW to a word, a fetch from that word is refused, where the fetch is otherwise good (R69, R351). Model's
choice: log entry 25. Spec's own: R69's decision. -/
def Obligations.StoredWordIsNotFetched : Prop :=
  ∀ (s t : State) (base rt : Reg) (off : Imm) (addr : Word), addr = off.signExtend 32 + s.readRs base →
    s.Admits .store (addr.extractLsb' 0 2 != 0#2) addr (spanBytes (biu s.cfg addr) 4) →
    exec (.sw base rt off) s = .next t →
    ∀ pc, alignWord (biu s.cfg pc) = alignWord (biu s.cfg addr) → pc.extractLsb' 0 2 = 0#2 →
      ¬ { t with pc := pc }.beyondLimit pc → isBusError s.cfg .fetch (biu s.cfg pc) = false →
      (∀ p ∈ spanBytes (alignWord (biu s.cfg pc)) 4, isMapped s.cfg .fetch p = true) →
      { t with pc := pc }.fetch = .refused .fetchOfStoredWord

/-! ### Jumps and branches -/

/-- J, JAL, JR, JALR outside a delay slot (JALR with rs not rd): encoding, target, link value, delay slot;
everything else as it was, no exception (R193 to R197). -/
def Obligations.JumpResults : Prop :=
  ∀ (s : State) (target : BitVec 26) (rs rd : Reg), s.inDelaySlot = false →
    (Encodes (0b000010#6 ++ target) (.j target) ∧
      ∃ t, exec (.j target) s = .next t ∧
        TransfersTo s t ((s.pc + 4#32).extractLsb' 28 4 ++ target ++ 0b00#2) none) ∧
    (Encodes (0b000011#6 ++ target) (.jal target) ∧
      ∃ t, exec (.jal target) s = .next t ∧
        TransfersTo s t ((s.pc + 4#32).extractLsb' 28 4 ++ target ++ 0b00#2) (some (31#5, s.pc + 8#32))) ∧
    (Encodes (0b000000#6 ++ rs ++ 0b000000000000000#15 ++ 0b001000#6) (.jr rs) ∧
      ∃ t, exec (.jr rs) s = .next t ∧ TransfersTo s t (s.readRs rs) none) ∧
    (Encodes (0b000000#6 ++ rs ++ 0b00000#5 ++ rd ++ 0b00000#5 ++ 0b001001#6) (.jalr rs rd) ∧
      (rs ≠ rd → ∃ t, exec (.jalr rs rd) s = .next t ∧ TransfersTo s t (s.readRs rs) (some (rd, s.pc + 8#32))))

/-- BEQ, BNE, BLEZ, BGTZ, BLTZ, BGEZ outside a delay slot: encoding, condition on the signed values, target; the
delay slot follows whether taken or not; everything else as it was, no exception (R198 to R203). Model's choice: log
entry 38, that a taken branch of offset 0 goes to the delay slot again. -/
def Obligations.BranchResults : Prop :=
  ∀ (s : State) (rs rt : Reg) (off : Imm) (target : Word), s.inDelaySlot = false →
    target = (s.pc + 4#32) + (off ++ 0b00#2 : BitVec 18).signExtend 32 →
    (Encodes (0b000100#6 ++ rs ++ rt ++ off) (.beq rs rt off) ∧
      ∃ t, exec (.beq rs rt off) s = .next t ∧
        TransfersTo s t (if s.readRs rs = s.readRt rt then target else s.npc + 4#32) none) ∧
    (Encodes (0b000101#6 ++ rs ++ rt ++ off) (.bne rs rt off) ∧
      ∃ t, exec (.bne rs rt off) s = .next t ∧
        TransfersTo s t (if s.readRs rs ≠ s.readRt rt then target else s.npc + 4#32) none) ∧
    (Encodes (0b000110#6 ++ rs ++ 0b00000#5 ++ off) (.blez rs off) ∧
      ∃ t, exec (.blez rs off) s = .next t ∧
        TransfersTo s t (if (s.readRs rs).toInt ≤ 0 then target else s.npc + 4#32) none) ∧
    (Encodes (0b000111#6 ++ rs ++ 0b00000#5 ++ off) (.bgtz rs off) ∧
      ∃ t, exec (.bgtz rs off) s = .next t ∧
        TransfersTo s t (if 0 < (s.readRs rs).toInt then target else s.npc + 4#32) none) ∧
    (Encodes (0b000001#6 ++ rs ++ 0b00000#5 ++ off) (.bltz rs off) ∧
      ∃ t, exec (.bltz rs off) s = .next t ∧
        TransfersTo s t (if (s.readRs rs).toInt < 0 then target else s.npc + 4#32) none) ∧
    (Encodes (0b000001#6 ++ rs ++ 0b00001#5 ++ off) (.bgez rs off) ∧
      ∃ t, exec (.bgez rs off) s = .next t ∧
        TransfersTo s t (if 0 ≤ (s.readRs rs).toInt then target else s.npc + 4#32) none)

/-- BLTZAL and BGEZAL outside a delay slot, with rs not r31: encoding, condition, target, and r31 = pc + 8 whether
taken or not; everything else as it was, no exception. Model's choice: log entry 38 for offset 0. -/
def Obligations.LinkBranchResults : Prop :=
  ∀ (s : State) (rs : Reg) (off : Imm) (target : Word), s.inDelaySlot = false → rs ≠ 31#5 →
    target = (s.pc + 4#32) + (off ++ 0b00#2 : BitVec 18).signExtend 32 →
    (Encodes (0b000001#6 ++ rs ++ 0b10000#5 ++ off) (.bltzal rs off) ∧
      ∃ t, exec (.bltzal rs off) s = .next t ∧
        TransfersTo s t (if (s.readRs rs).getLsbD 31 = true then target else s.npc + 4#32)
          (some (31#5, s.pc + 8#32))) ∧
    (Encodes (0b000001#6 ++ rs ++ 0b10001#5 ++ off) (.bgezal rs off) ∧
      ∃ t, exec (.bgezal rs off) s = .next t ∧
        TransfersTo s t (if (s.readRs rs).getLsbD 31 = false then target else s.npc + 4#32)
          (some (31#5, s.pc + 8#32)))

/-- BLTZAL and BGEZAL with rs = r31 are refused (R206): the source forbids the encoding and does not trap it. Spec's
own: the refusal (R206's decision). -/
def Obligations.LinkBranchOnLinkRegister : Prop :=
  ∀ (s : State) (off : Imm), s.inDelaySlot = false →
    exec (.bltzal 31#5 off) s = .refused .linkBranchOnLinkRegister ∧
    exec (.bgezal 31#5 off) s = .refused .linkBranchOnLinkRegister

/-- BCzF and BCzT outside a delay slot, with Cu[z] = 1 and z valid: encoding, the branch on the condition line z as
the previous instruction's step sampled it; everything else as it was, no exception. Model's choice: log entry 38 for
offset 0. Spec's own: the time of the sample (R221). -/
def Obligations.CoprocessorBranchResults : Prop :=
  ∀ (s : State) (off : Imm) (target : Word), s.inDelaySlot = false →
    target = (s.pc + 4#32) + (off ++ 0b00#2 : BitVec 18).signExtend 32 →
    (∀ z : CopUnit, ∀ i, (z, i) ∈ [(0#2, Instr.bc0f off), (1#2, .bc1f off), (2#2, .bc2f off), (3#2, .bc3f off)] →
      Encodes (0b0100#4 ++ z ++ 0b01000#5 ++ 0b00000#5 ++ off) i ∧
      (s.srView.getLsbD (28 + z.toNat) = true → (z = 0#2 ∨ s.cfg.bcValidZ.getLsbD z.toNat = true) →
        ∃ t, exec i s = .next t ∧
          TransfersTo s t (if s.cpcPrev.getLsbD z.toNat = false then target else s.npc + 4#32) none)) ∧
    (∀ z : CopUnit, ∀ i, (z, i) ∈ [(0#2, Instr.bc0t off), (1#2, .bc1t off), (2#2, .bc2t off), (3#2, .bc3t off)] →
      Encodes (0b0100#4 ++ z ++ 0b01000#5 ++ 0b00001#5 ++ off) i ∧
      (s.srView.getLsbD (28 + z.toNat) = true → (z = 0#2 ∨ s.cfg.bcValidZ.getLsbD z.toNat = true) →
        ∃ t, exec i s = .next t ∧
          TransfersTo s t (if s.cpcPrev.getLsbD z.toNat = true then target else s.npc + 4#32) none))

/-- Every jump and branch in a delay slot is refused before any check of its own, and JALR with rs = rd is refused
(R340, R197). Spec's own: the refusals (R340, R197). Model's choice: log entries 30 and 31. -/
def Obligations.UndefinedTransfersRefused : Prop :=
  (∀ (i : Instr) (s : State), isTransfer i = true → s.inDelaySlot = true →
    exec i s = .refused .branchInDelaySlot) ∧
  (∀ (r : Reg) (s : State), s.inDelaySlot = false → exec (.jalr r r) s = .refused .jalrSameRegister)

/-- Where an instruction that completes goes: a jump or branch to the instruction at `npc` as its delay slot and then
to its target (the jump target, the branch target or register rs), or, for a branch on a condition, to the word after
the delay slot; any other instruction to `npc` and then to the word after it; or the exception handler is entered
(R23, R191, R290). Model's choice: log entry 38 for a branch of offset 0. Spec's own: what entry leaves (log entry
26). -/
def Obligations.Sequencing : Prop :=
  ∀ (i : Instr) (s t : State), exec i s = .next t →
    (∃ target, s.targetOf i = some target ∧
      (GoesTo s t target true ∨ (isConditional i = true ∧ GoesTo s t (s.npc + 4#32) true))) ∨
    (s.targetOf i = none ∧ GoesTo s t (s.npc + 4#32) false) ∨
    ∃ e, EntryWrites e s t

/-! ### Coprocessor 0 and the traps -/

/-- MFC0 in kernel mode or with Cu0 = 1: encoding, and the value of the register that rd names pending for rt as a
load's is; SR, EPC and BadVAddr whole, Cause's BD, CE, ExcCode as recorded and IP as the lines now are
(R241, R248, R291, R342). Spec's own: the register numbers and Cause's layout (R248, R291, log entry 26), the delay
(R342). Model's choice: the draw for the other registers (log entry 35). -/
def Obligations.Mfc0Results : Prop :=
  ∀ (s : State) (rt : Reg) (rd : CopReg),
    Encodes (0b010000#6 ++ 0b00000#5 ++ rt ++ rd ++ 0b00000000000#11) (.mfc0 rt rd) ∧
    (s.cp0Open = true → s.mtcShadow = none → s.cfg.cp0Map = Config.default.cp0Map →
      ∃ t v, exec (.mfc0 rt rd) s = .next t ∧ DeliversTo s t rt v false ∧
        (rd = 12#5 → v = s.sr) ∧ (rd = 14#5 → v = s.epc) ∧ (rd = 8#5 → v = s.badVAddr) ∧
        (rd = 13#5 → v.getLsbD 31 = s.cause.getLsbD 31 ∧ v.extractLsb' 28 2 = s.cause.extractLsb' 28 2 ∧
          v.extractLsb' 10 6 = s.pins.irq ∧ v.extractLsb' 8 2 = s.cause.extractLsb' 8 2 ∧
          v.extractLsb' 2 5 = s.cause.extractLsb' 2 5) ∧
        (rd ∉ [12#5, 14#5, 8#5, 13#5] → v = Config.freeWord s.freeTick 4))

/-- MTC0 in kernel mode or with Cu0 = 1: encoding; SR is written whole; of Cause only the software interrupt bits
9:8; a write to any other register is refused; everything else as it was (R245, R248). Spec's own: the register
numbers and what each accepts (R248, log entries 14 and 26). -/
def Obligations.Mtc0Results : Prop :=
  ∀ (s : State) (rt : Reg) (rd : CopReg),
    Encodes (0b010000#6 ++ 0b00100#5 ++ rt ++ rd ++ 0b00000000000#11) (.mtc0 rt rd) ∧
    (s.cp0Open = true → s.cfg.cp0Map = Config.default.cp0Map →
      (rd = 12#5 → ∃ t, exec (.mtc0 rt rd) s = .next t ∧ Advances s t ∧ SameHiLo s t ∧ SameCop s t ∧
        t.sr = s.readRt rt ∧ t.cause = s.cause ∧ t.mtcShadow = some (.sr s.sr)) ∧
      (rd = 13#5 → ∃ t, exec (.mtc0 rt rd) s = .next t ∧ Advances s t ∧ SameHiLo s t ∧ SameCop s t ∧
        t.sr = s.sr ∧ t.cause.extractLsb' 8 2 = (s.readRt rt).extractLsb' 8 2 ∧
        t.cause.extractLsb' 10 22 = s.cause.extractLsb' 10 22 ∧
        t.cause.extractLsb' 0 8 = s.cause.extractLsb' 0 8 ∧ t.mtcShadow = some (.cause s.cause)) ∧
      (rd ≠ 12#5 → rd ≠ 13#5 → exec (.mtc0 rt rd) s = .refused (.cp0WriteUnmodelled rd)))

/-- The traps of the coprocessor instructions. BCzF and BCzT outside a delay slot: Coprocessor Unusable with
Cu[z] = 0, for z = 0 in kernel mode too, and a refusal with Cu[z] = 1 and z not valid (R222, R224 to R226). In user
mode with Cu0 = 0, MFC0, MTC0 and RFE take Reserved Instruction, not Coprocessor Unusable (R240, R242). Spec's own:
what entry leaves (log entry 26). -/
def Obligations.CoprocessorTraps : Prop :=
  (∀ (s : State) (off : Imm) (z : CopUnit) (i : Instr), s.inDelaySlot = false →
    (z, i) ∈ [(0#2, Instr.bc0f off), (1#2, .bc1f off), (2#2, .bc2f off), (3#2, .bc3f off),
      (0#2, .bc0t off), (1#2, .bc1t off), (2#2, .bc2t off), (3#2, .bc3t off)] →
    (s.srView.getLsbD (28 + z.toNat) = false → ∃ t, exec i s = .next t ∧ Enters (.cpu z) s t) ∧
    (s.srView.getLsbD (28 + z.toNat) = true → z ≠ 0#2 → s.cfg.bcValidZ.getLsbD z.toNat = false →
      exec i s = .refused (.coprocessorUndefined z))) ∧
  (∀ (s : State) (rt : Reg) (rd : CopReg) (i : Instr), i ∈ [Instr.mfc0 rt rd, .mtc0 rt rd, .rfe] →
    s.srView.getLsbD 1 = true → s.srView.getLsbD 28 = false →
    ∃ t, exec i s = .next t ∧ Enters .ri s t)

/-- RFE in kernel mode or with Cu0 = 1, not directly after a load or store: encoding, the current pair of KU/IE bits
restored from the previous pair and the previous from the old, every other bit of SR and everything else as it was;
directly after a load or store it is refused (R243, R348). Model's choice: log entry 17. Spec's own: the refusal
(R348). -/
def Obligations.RfeResult : Prop :=
  Encodes 0x42000010#32 .rfe ∧
  ∀ s : State, s.cp0Open = true →
    (s.lastWasMem = false → s.mtcShadow = none →
      ∃ t, exec .rfe s = .next t ∧ Proceeds s t ∧ SameHiLo s t ∧ SameCop s t ∧ t.cause = s.cause ∧
        t.sr.extractLsb' 0 2 = s.sr.extractLsb' 2 2 ∧ t.sr.extractLsb' 2 2 = s.sr.extractLsb' 4 2 ∧
        t.sr.extractLsb' 4 28 = s.sr.extractLsb' 4 28) ∧
    (s.lastWasMem = true → exec .rfe s = .refused .memoryBeforeRfe)

/-- Exception entry and RFE undo each other: what RFE makes of SR after an entry has the interrupted program's
current and previous pairs back and every bit above the stack as it was; after two entries two returns give the
current pair back (R243, R290, R298). Spec's own: that entry pushes the KU/IE stack (R290's decision, log entry 26). -/
def Obligations.ReturnUndoesEntry : Prop :=
  ∀ (e f : Exc) (s : State), s.mtcShadow = none →
    ((takeException e s).returnStatus.sr.extractLsb' 0 4 = s.sr.extractLsb' 0 4 ∧
      (takeException e s).returnStatus.sr.extractLsb' 6 26 = s.sr.extractLsb' 6 26) ∧
    (takeException f (takeException e s)).returnStatus.returnStatus.sr.extractLsb' 0 2 = s.sr.extractLsb' 0 2

/-- SYSCALL and BREAK with any code, and the four unimplemented TLB instructions, complete by entering their
exception, in every mode and in delay slots too: EPC points at the instruction itself or at the branch before it,
the registers, memory, HI and LO are as they were (R244, R261, R262, R292). Spec's own: the TLB words (R244) and
what entry leaves (log entry 26). -/
def Obligations.TrapInstructionsEnter : Prop :=
  ∀ (s : State) (code : BitVec 20),
    (Encodes (0b000000#6 ++ code ++ 0b001100#6) (.syscall code) ∧
      ∃ t, exec (.syscall code) s = .next t ∧ Enters .sys s t) ∧
    (Encodes (0b000000#6 ++ code ++ 0b001101#6) (.brk code) ∧
      ∃ t, exec (.brk code) s = .next t ∧ Enters .bp s t) ∧
    (Encodes 0x42000008#32 .tlbp ∧ ∃ t, exec .tlbp s = .next t ∧ Enters .ri s t) ∧
    (Encodes 0x42000001#32 .tlbr ∧ ∃ t, exec .tlbr s = .next t ∧ Enters .ri s t) ∧
    (Encodes 0x42000002#32 .tlbwi ∧ ∃ t, exec .tlbwi s = .next t ∧ Enters .ri s t) ∧
    (Encodes 0x42000006#32 .tlbwr ∧ ∃ t, exec .tlbwr s = .next t ∧ Enters .ri s t)

/-- MFCz and MTCz for z = 1, 2, 3: encoding, Coprocessor Unusable with Cu[z] = 0, and with Cu[z] = 1 a refusal,
whatever `SUPPORTED_COP` is (R220, R224, R227, R228). Spec's own: the order of the checks and the refusal (R220's and
R224's decision), and what entry leaves (log entry 26). -/
def Obligations.ExternalCoprocessorMoves : Prop :=
  ∀ (s : State) (rt : Reg) (rd : CopReg) (z : CopUnit) (i : Instr),
    ((z, i) ∈ [(1#2, Instr.mfc1 rt rd), (2#2, .mfc2 rt rd), (3#2, .mfc3 rt rd)] →
      Encodes (0b0100#4 ++ z ++ 0b00000#5 ++ rt ++ rd ++ 0b00000000000#11) i) ∧
    ((z, i) ∈ [(1#2, Instr.mtc1 rt rd), (2#2, .mtc2 rt rd), (3#2, .mtc3 rt rd)] →
      Encodes (0b0100#4 ++ z ++ 0b00100#5 ++ rt ++ rd ++ 0b00000000000#11) i) ∧
    ((z, i) ∈ [(1#2, Instr.mfc1 rt rd), (2#2, .mfc2 rt rd), (3#2, .mfc3 rt rd),
        (1#2, .mtc1 rt rd), (2#2, .mtc2 rt rd), (3#2, .mtc3 rt rd)] →
      (s.srView.getLsbD (28 + z.toNat) = false → ∃ t, exec i s = .next t ∧ Enters (.cpu z) s t) ∧
      (s.srView.getLsbD (28 + z.toNat) = true → exec i s = .refused (.coprocessorUndefined z)))

/-! ### Exception entry, interrupts, fetch, the step -/

/-- `TakeException` writes EPC, Cause, BadVAddr, SR, pc and npc as the rule says, leaves kernel mode with interrupts
off, and changes no general register, HI, LO, memory or other coprocessor register (R290, R295). Spec's own: Cause's
layout and the vectors (log entry 26). Model's choice: log entries 16, 32 and 40. -/
def Obligations.ExceptionEntry : Prop :=
  ∀ (e : Exc) (s : State),
    EntryWrites e s (takeException e s) ∧
    (takeException e s).user = false ∧ (takeException e s).interruptsOn = false ∧
    (∀ q, (takeException e s).gprRead q = s.gprRead q) ∧ (takeException e s).loadPending = s.loadPending ∧
    SameHiLo s (takeException e s) ∧ SameMemory s (takeException e s) ∧ SameInputs s (takeException e s) ∧
    (takeException e s).cpr = s.cpr

/-- The default exception codes and vectors: with them, entry leaves the ExcCode of R283's table, and goes to
0xBFC00180 or 0x80000080 by SR bit 22 (R283, R290). Spec's own: the values are from general knowledge (log entry
26). -/
def Obligations.DefaultCodesAndVectors : Prop :=
  ∀ (s : State) (a : Word) (z : CopUnit), s.cfg = Config.default → s.mtcShadow = none →
    (∀ e k, (e, k) ∈ [(Exc.int, 0#5), (.adel a, 4#5), (.ades a, 5#5), (.ibe, 6#5), (.dbe, 7#5), (.sys, 8#5),
        (.bp, 9#5), (.ri, 10#5), (.cpu z, 11#5), (.ov, 12#5)] →
      (takeException e s).cause.extractLsb' 2 5 = k ∧
      (takeException e s).pc = if s.sr.getLsbD 22 then 0xBFC00180#32 else 0x80000080#32) ∧
    (takeException (.cpu z) s).cause.extractLsb' 28 2 = z ∧
    (takeException (.adel a) s).badVAddr = a ∧ (takeException (.ades a) s).badVAddr = a

/-- An interrupt is taken at the start of a step where reset is not asserted, IEc = 1 and some pending line is
unmasked: the step enters Int instead of executing; the pending load lands, and HI, LO, memory, the parameters and the
other coprocessor registers are as they were (R296). That a disabled or masked one is not taken,
`StepRunsDecodedInstruction` and `FetchErrors` say. Spec's own: interrupt lines and masks (R296, log entry 26). Model's
choice: log entries 13 and 34. -/
def Obligations.InterruptEntry : Prop :=
  ∀ s : State, s.Settled → s.pins.reset = false → s.srView.getLsbD 0 = true →
    ((s.pins.irq ++ s.causeView.extractLsb' 8 2 : BitVec 8) &&& s.srView.extractLsb' 8 8) ≠ 0#8 →
    ∃ t, step s = .next t ∧ EntryWrites .int s t ∧ (∀ q, t.gprRead q = s.settled q) ∧ SameHiLo s t ∧
      SameMemory s t ∧ t.cfg = s.cfg ∧ t.cpr = s.cpr ∧ t.cpcPrev = s.pins.cpc

/-- Where no reset is due, and IEc = 0 or every pending line is masked (R296): a fetch from a misaligned pc, or in user
mode from at or above the user limit, takes Address Error with BadVAddr = pc and EPC from pc (pc - 4 in a delay slot);
a fetch on which the bus reports an error takes Bus Error; the instruction is not executed (R62, R63, R64, R65, R285,
R286). Spec's own: what entry leaves (log entry 26). Model's choice: log entry 40 for EPC in a delay slot, which R290
step 1 gives so while R285 says that it is the faulting pc itself; log entries 13 and 24. -/
def Obligations.FetchErrors : Prop :=
  ∀ s : State, s.Settled → s.pins.reset = false →
    (s.srView.getLsbD 0 = false ∨
      ((s.pins.irq ++ s.causeView.extractLsb' 8 2 : BitVec 8) &&& s.srView.extractLsb' 8 8) = 0#8) →
    (s.pc.extractLsb' 0 2 ≠ 0#2 ∨ s.beyondLimit s.pc →
      ∃ t, step s = .next t ∧ EntryWrites (.adel s.pc) s t ∧ (∀ q, t.gprRead q = s.settled q) ∧ SameHiLo s t ∧
        SameMemory s t) ∧
    (s.pc.extractLsb' 0 2 = 0#2 → ¬ s.beyondLimit s.pc → isBusError s.cfg .fetch (biu s.cfg s.pc) = true →
      ∃ t, step s = .next t ∧ EntryWrites .ibe s t ∧ (∀ q, t.gprRead q = s.settled q) ∧ SameHiLo s t ∧
        SameMemory s t)

/-- Where no reset is due, IEc = 0 or every pending line is masked, so that no interrupt is taken (R296), and the fetch is
good, and the four bytes at pc, in the byte order, are the word w, the step is that of w (`runWord`): exec of i where w
decodes to the instruction i, and what `ReservedAndMustBeZeroWords` and `CoprocessorWordUnusable` say where it does not;
after it `cpc_prev` takes the condition lines of this step, the next input sample comes and the free-value counter
advances; a fault or refusal of w is the step's (R35, R62). Spec's own: interrupt lines and masks (R296, log entry 26).
Model's choice: the input samples (log entry 10) and the counter (log entry 9). -/
def Obligations.StepRunsDecodedInstruction : Prop :=
  ∀ (s : State) (w p : Word), s.Settled → s.pins.reset = false →
    (s.srView.getLsbD 0 = false ∨
      ((s.pins.irq ++ s.causeView.extractLsb' 8 2 : BitVec 8) &&& s.srView.extractLsb' 8 8) = 0#8) →
    s.FetchAdmits → p = biu s.cfg s.pc &&& 0xFFFFFFFC#32 →
    w = (if s.cfg.bigEndian
      then Memory.read s.mem p.toNat ++ Memory.read s.mem (p + 1#32).toNat ++
        Memory.read s.mem (p + 2#32).toNat ++ Memory.read s.mem (p + 3#32).toNat
      else Memory.read s.mem (p + 3#32).toNat ++ Memory.read s.mem (p + 2#32).toNat ++
        Memory.read s.mem (p + 1#32).toNat ++ Memory.read s.mem p.toNat) →
    (∀ i, decode s.cfg.multVariant w = .instr i → runWord w s = exec i s) ∧
    (∀ t, runWord w s = .next t → ∃ u, step s = .next u ∧ u.cpcPrev = t.pins.cpc ∧ u.freeTick = t.freeTick + 1 ∧
      u = { t with cpcPrev := u.cpcPrev, freeTick := u.freeTick, pins := u.pins, nextPins := u.nextPins } ∧
      (t.nextPins = [] → u.pins = t.pins ∧ u.nextPins = []) ∧
      (∀ x xs, t.nextPins = x :: xs → u.pins = x ∧ u.nextPins = xs)) ∧
    (∀ f, runWord w s = .fault f → step s = .fault f) ∧
    (∀ r, runWord w s = .refused r → step s = .refused r)

/-- The instruction after an MTC0. With `MTC_VISIBILITY` unspecified, its step goes on exactly where it comes out
the same whether the new value is in force yet or not, and then it is that outcome; where the two differ it is
refused. After MTC0 to SR, an MFC0 of SR reads
the new value under `next` and the old one under `after_one` (R247, R349). Spec's own: `MTC_VISIBILITY` (R247's
decision). Model's choice: log entry 15. -/
def Obligations.Mtc0Visibility : Prop :=
  (∀ s u : State, s.cfg.mtcVisibility = .unspecified → s.mtcShadow ≠ none → step s = .next u →
    ∃ a b, step (s.withVisibility .next) = .next a ∧ step (s.withVisibility .afterOne) = .next b ∧
      a.withVisibility .unspecified = u ∧ b.withVisibility .unspecified = u) ∧
  (∀ s a b : State, s.cfg.mtcVisibility = .unspecified → s.mtcShadow ≠ none →
    step (s.withVisibility .next) = .next a → step (s.withVisibility .afterOne) = .next b →
    (a.withVisibility .unspecified = b.withVisibility .unspecified → step s = .next (a.withVisibility .unspecified)) ∧
    (a.withVisibility .unspecified ≠ b.withVisibility .unspecified → step s = .refused .mtcVisibility)) ∧
  (∀ (s t u : State) (rt r : Reg), r ≠ 0#5 → s.cfg.cp0Map = Config.default.cp0Map →
    exec (.mtc0 rt 12#5) s = .next t → t.mtcShadow ≠ none → t.cp0Open = true →
    exec (.mfc0 r 12#5) t = .next u →
    (s.cfg.mtcVisibility = .next → u.loadPending = some (r, s.readRt rt)) ∧
    (s.cfg.mtcVisibility = .afterOne → u.loadPending = some (r, s.sr)))

/-! ### Reset and the whole machine -/

/-- What reset leaves, as far as the spec gives it (R37, R330). Spec's own: the address, BEV and the cleared
bookkeeping (R37, log entry 26). -/
def Obligations.ResetState : Prop :=
  State.reset.pc = 0xBFC00000#32 ∧ State.reset.npc = 0xBFC00004#32 ∧ State.reset.inDelaySlot = false ∧
  State.reset.loadPending = none ∧ State.reset.mfHi = none ∧ State.reset.mfLo = none ∧
  State.reset.mdFresh = false ∧ State.reset.mtcShadow = none ∧ State.reset.gprRead 0#5 = 0#32 ∧
  State.reset.user = false ∧ State.reset.interruptsOn = false ∧ State.reset.sr.getLsbD 22 = true ∧
  State.reset.stored = []

/-- Asserting the reset input, at any time, restarts the machine at `RESET_PC` in kernel mode with interrupts off and
SR.BEV = 1, clears the bookkeeping, leaves memory and the parameters as they are, and leaves every other register a
free value: the general registers, HI, LO, the other bits of SR, Cause's stored bits, EPC, BadVAddr, every other
coprocessor register and the sampled condition lines, one draw each (R37, R331). Model's choice: log entries 11 and 25. Spec's
own: what R37 gives (log entry 26). -/
def Obligations.ResetInput : Prop :=
  ∀ s : State, s.pins.reset = true →
    ∃ t, step s = .next t ∧ t.pc = s.cfg.resetPc ∧ t.npc = s.cfg.resetPc + 4#32 ∧ t.inDelaySlot = false ∧
      t.loadPending = none ∧ t.mfHi = none ∧ t.mfLo = none ∧ t.mdFresh = false ∧ t.mtcShadow = none ∧
      t.lastWasMem = false ∧ t.stored = [] ∧
      t.user = false ∧ t.interruptsOn = false ∧ t.sr.getLsbD 22 = true ∧ t.gprRead 0#5 = 0#32 ∧
      t.mem = s.mem ∧ t.cfg = s.cfg ∧
      (∀ q : Reg, q ≠ 0#5 → t.gprRead q = Config.freeWord s.freeTick (16 + q.toNat)) ∧
      t.hi = Config.freeWord s.freeTick 48 ∧ t.lo = Config.freeWord s.freeTick 49 ∧
      (∀ k, 2 ≤ k → k ≠ 22 → t.sr.getLsbD k = (Config.freeWord s.freeTick 50).getLsbD k) ∧
      t.cause = Config.freeWord s.freeTick 51 &&& causeStored ∧
      t.epc = Config.freeWord s.freeTick 52 ∧ t.badVAddr = Config.freeWord s.freeTick 53 ∧
      t.cpcPrev = (Config.freeWord s.freeTick 182).extractLsb' 0 4 ∧
      ∀ k, k < 128 → t.cpr[k]? = some (Config.freeWord s.freeTick (54 + k))

/-- The machine after reset meets the invariant. Model's choice: the values of log entries 4 to 8. -/
def Obligations.ResetMeetsInvariant : Prop := State.reset.Inv

/-- Every step that answers a next state leaves the parameters as they are, the byte order among them (R6, R31), and
keeps the invariant: memory's canonical form, the list of words stored to,
register 0, the pending load, the sequence of pc and npc outside delay slots, the layout of Cause (R21, R23, R32,
R69, R291). Model's choice: log entry 25 for the list, log entry 32 for Cause. -/
def Obligations.StepKeepsInvariant : Prop :=
  ∀ s t : State, step s = .next t → t.cfg = s.cfg ∧ (s.Inv → t.Inv)

/-- What an instruction that completes may change: a general register only if it is the destination (or the pending
load lands in it), memory only by a store, HI and LO only by the six instructions that write them, the status and
exception registers only by MTC0, RFE or exception entry, the inputs never (R24, R125, R140). Spec's own: what entry
leaves (log entry 26). -/
def Obligations.OnlyNamedStateChanges : Prop :=
  ∀ (i : Instr) (s t : State), exec i s = .next t →
    (∀ q, destination i ≠ some q → t.gprRead q = s.settled q) ∧
    (isStore i = false → SameMemory s t) ∧
    (writesHiLo i = false → t.hi = s.hi ∧ t.lo = s.lo) ∧
    ((SameStatus s t ∧ t.epc = s.epc ∧ t.badVAddr = s.badVAddr) ∨ (∃ e, EntryWrites e s t) ∨ i = .rfe ∨
      ∃ rt rd, i = .mtc0 rt rd) ∧
    SameInputs s t

/-- The only way from kernel to user mode is MTC0 or RFE: a step from kernel mode that ends in user mode has fetched
a word that selects one of the two (R28, R243, R245, R290). Spec's own: KUc = 0 after reset and entry (R37, R290). -/
def Obligations.OnlyMtc0AndRfeEnterUserMode : Prop :=
  ∀ s t : State, s.mtcShadow = none → s.user = false → step s = .next t → t.user = true →
    ∃ w i, s.fetch = .word w ∧
      (decode s.cfg.multVariant w = .instr i ∨ decode s.cfg.multVariant w = .mustBeZero i) ∧
      (i = .rfe ∨ ∃ rt rd, i = .mtc0 rt rd)

/-- User mode with Cu0 = 0 cannot change the status: a step from there leaves SR, Cause, EPC, BadVAddr and the
coprocessor registers as they were and stays in user mode, or enters an exception and is in kernel mode, or is a reset
(R240, R242, R290, R331). Spec's own: what entry leaves (log entry 26). -/
def Obligations.UserKeepsSystemRegisters : Prop :=
  ∀ s t : State, s.mtcShadow = none → s.sr.getLsbD 1 = true → s.sr.getLsbD 28 = false → step s = .next t →
    (s.pins.reset = false ∧ SameStatus s t ∧ SameCop s t ∧ t.user = true) ∨
    (s.pins.reset = false ∧ (∃ e, EntryWrites e s t) ∧ t.cpr = s.cpr ∧ t.user = false) ∨
    (s.pins.reset = true ∧ t.pc = s.cfg.resetPc ∧ t.user = false)

/-- User mode reaches no virtual address from the user limit on: under the default segments and limit, a step from user
mode leaves every byte at a physical address from 0x80000000 on as it was, and one whose instruction is a load or store
of a virtual address from 0x80000000 on leaves user mode with all of memory as it was. The memory under kseg0 and
kseg1 has virtual addresses below the limit too, so the limit is none for it (R53, R64). Spec's own: the default limit and segments (R6, log
entry 26). -/
def Obligations.UserStoresStayBelowLimit : Prop :=
  ∀ s t : State, s.cfg = Config.default → Memory.wf s.mem = true → s.user = true → step s = .next t →
    (∀ a, 0x80000000 ≤ a → Memory.read t.mem a = Memory.read s.mem a) ∧
    (∀ w i x, s.fetch = .word w → decode .asPrinted w = .instr i → s.accessOf i = some x →
      0x80000000 ≤ x.addr.toNat → t.user = false ∧ ∀ a, Memory.read t.mem a = Memory.read s.mem a)

end
end

