-- ==== Sys2Proof/Laws/State.lean ====
section
/-! SUPPORT. What every named update of the state leaves in every field. -/

namespace Sys2Proof.Machine

/-! ### setReg -/

@[simp] theorem State.setReg_cfg (s : State) (r : Reg) (v : Word) : (s.setReg r v).cfg = s.cfg :=
  by unfold State.setReg; split <;> rfl
@[simp] theorem State.setReg_pc (s : State) (r : Reg) (v : Word) : (s.setReg r v).pc = s.pc :=
  by unfold State.setReg; split <;> rfl
@[simp] theorem State.setReg_npc (s : State) (r : Reg) (v : Word) : (s.setReg r v).npc = s.npc :=
  by unfold State.setReg; split <;> rfl
@[simp] theorem State.setReg_inDelaySlot (s : State) (r : Reg) (v : Word) : (s.setReg r v).inDelaySlot = s.inDelaySlot :=
  by unfold State.setReg; split <;> rfl
@[simp] theorem State.setReg_hi (s : State) (r : Reg) (v : Word) : (s.setReg r v).hi = s.hi :=
  by unfold State.setReg; split <;> rfl
@[simp] theorem State.setReg_lo (s : State) (r : Reg) (v : Word) : (s.setReg r v).lo = s.lo :=
  by unfold State.setReg; split <;> rfl
@[simp] theorem State.setReg_sr (s : State) (r : Reg) (v : Word) : (s.setReg r v).sr = s.sr :=
  by unfold State.setReg; split <;> rfl
@[simp] theorem State.setReg_cause (s : State) (r : Reg) (v : Word) : (s.setReg r v).cause = s.cause :=
  by unfold State.setReg; split <;> rfl
@[simp] theorem State.setReg_epc (s : State) (r : Reg) (v : Word) : (s.setReg r v).epc = s.epc :=
  by unfold State.setReg; split <;> rfl
@[simp] theorem State.setReg_badVAddr (s : State) (r : Reg) (v : Word) : (s.setReg r v).badVAddr = s.badVAddr :=
  by unfold State.setReg; split <;> rfl
@[simp] theorem State.setReg_cpr (s : State) (r : Reg) (v : Word) : (s.setReg r v).cpr = s.cpr :=
  by unfold State.setReg; split <;> rfl
@[simp] theorem State.setReg_mem (s : State) (r : Reg) (v : Word) : (s.setReg r v).mem = s.mem :=
  by unfold State.setReg; split <;> rfl
@[simp] theorem State.setReg_stored (s : State) (r : Reg) (v : Word) : (s.setReg r v).stored = s.stored :=
  by unfold State.setReg; split <;> rfl
@[simp] theorem State.setReg_loadPending (s : State) (r : Reg) (v : Word) : (s.setReg r v).loadPending = s.loadPending :=
  by unfold State.setReg; split <;> rfl
@[simp] theorem State.setReg_mfHi (s : State) (r : Reg) (v : Word) : (s.setReg r v).mfHi = s.mfHi :=
  by unfold State.setReg; split <;> rfl
@[simp] theorem State.setReg_mfLo (s : State) (r : Reg) (v : Word) : (s.setReg r v).mfLo = s.mfLo :=
  by unfold State.setReg; split <;> rfl
@[simp] theorem State.setReg_mdFresh (s : State) (r : Reg) (v : Word) : (s.setReg r v).mdFresh = s.mdFresh :=
  by unfold State.setReg; split <;> rfl
@[simp] theorem State.setReg_cpcPrev (s : State) (r : Reg) (v : Word) : (s.setReg r v).cpcPrev = s.cpcPrev :=
  by unfold State.setReg; split <;> rfl
@[simp] theorem State.setReg_mtcShadow (s : State) (r : Reg) (v : Word) : (s.setReg r v).mtcShadow = s.mtcShadow :=
  by unfold State.setReg; split <;> rfl
@[simp] theorem State.setReg_lastWasMem (s : State) (r : Reg) (v : Word) : (s.setReg r v).lastWasMem = s.lastWasMem :=
  by unfold State.setReg; split <;> rfl
@[simp] theorem State.setReg_pins (s : State) (r : Reg) (v : Word) : (s.setReg r v).pins = s.pins :=
  by unfold State.setReg; split <;> rfl
@[simp] theorem State.setReg_nextPins (s : State) (r : Reg) (v : Word) : (s.setReg r v).nextPins = s.nextPins :=
  by unfold State.setReg; split <;> rfl
@[simp] theorem State.setReg_freeTick (s : State) (r : Reg) (v : Word) : (s.setReg r v).freeTick = s.freeTick :=
  by unfold State.setReg; split <;> rfl

/-! ### land -/

@[simp] theorem State.land_cfg (s : State) : (s.land).cfg = s.cfg :=
  by unfold State.land; split <;> simp_all
@[simp] theorem State.land_pc (s : State) : (s.land).pc = s.pc :=
  by unfold State.land; split <;> simp_all
@[simp] theorem State.land_npc (s : State) : (s.land).npc = s.npc :=
  by unfold State.land; split <;> simp_all
@[simp] theorem State.land_inDelaySlot (s : State) : (s.land).inDelaySlot = s.inDelaySlot :=
  by unfold State.land; split <;> simp_all
@[simp] theorem State.land_hi (s : State) : (s.land).hi = s.hi :=
  by unfold State.land; split <;> simp_all
@[simp] theorem State.land_lo (s : State) : (s.land).lo = s.lo :=
  by unfold State.land; split <;> simp_all
@[simp] theorem State.land_sr (s : State) : (s.land).sr = s.sr :=
  by unfold State.land; split <;> simp_all
@[simp] theorem State.land_cause (s : State) : (s.land).cause = s.cause :=
  by unfold State.land; split <;> simp_all
@[simp] theorem State.land_epc (s : State) : (s.land).epc = s.epc :=
  by unfold State.land; split <;> simp_all
@[simp] theorem State.land_badVAddr (s : State) : (s.land).badVAddr = s.badVAddr :=
  by unfold State.land; split <;> simp_all
@[simp] theorem State.land_cpr (s : State) : (s.land).cpr = s.cpr :=
  by unfold State.land; split <;> simp_all
@[simp] theorem State.land_mem (s : State) : (s.land).mem = s.mem :=
  by unfold State.land; split <;> simp_all
@[simp] theorem State.land_stored (s : State) : (s.land).stored = s.stored :=
  by unfold State.land; split <;> simp_all
@[simp] theorem State.land_loadPending (s : State) : (s.land).loadPending = none :=
  by unfold State.land; split <;> simp_all
@[simp] theorem State.land_mfHi (s : State) : (s.land).mfHi = s.mfHi :=
  by unfold State.land; split <;> simp_all
@[simp] theorem State.land_mfLo (s : State) : (s.land).mfLo = s.mfLo :=
  by unfold State.land; split <;> simp_all
@[simp] theorem State.land_mdFresh (s : State) : (s.land).mdFresh = s.mdFresh :=
  by unfold State.land; split <;> simp_all
@[simp] theorem State.land_cpcPrev (s : State) : (s.land).cpcPrev = s.cpcPrev :=
  by unfold State.land; split <;> simp_all
@[simp] theorem State.land_mtcShadow (s : State) : (s.land).mtcShadow = s.mtcShadow :=
  by unfold State.land; split <;> simp_all
@[simp] theorem State.land_lastWasMem (s : State) : (s.land).lastWasMem = s.lastWasMem :=
  by unfold State.land; split <;> simp_all
@[simp] theorem State.land_pins (s : State) : (s.land).pins = s.pins :=
  by unfold State.land; split <;> simp_all
@[simp] theorem State.land_nextPins (s : State) : (s.land).nextPins = s.nextPins :=
  by unfold State.land; split <;> simp_all
@[simp] theorem State.land_freeTick (s : State) : (s.land).freeTick = s.freeTick :=
  by unfold State.land; split <;> simp_all

/-! ### landEarly -/

@[simp] theorem State.landEarly_cfg (s : State) : (s.landEarly).cfg = s.cfg :=
  by unfold State.landEarly; split <;> simp
@[simp] theorem State.landEarly_pc (s : State) : (s.landEarly).pc = s.pc :=
  by unfold State.landEarly; split <;> simp
@[simp] theorem State.landEarly_npc (s : State) : (s.landEarly).npc = s.npc :=
  by unfold State.landEarly; split <;> simp
@[simp] theorem State.landEarly_inDelaySlot (s : State) : (s.landEarly).inDelaySlot = s.inDelaySlot :=
  by unfold State.landEarly; split <;> simp
@[simp] theorem State.landEarly_hi (s : State) : (s.landEarly).hi = s.hi :=
  by unfold State.landEarly; split <;> simp
@[simp] theorem State.landEarly_lo (s : State) : (s.landEarly).lo = s.lo :=
  by unfold State.landEarly; split <;> simp
@[simp] theorem State.landEarly_sr (s : State) : (s.landEarly).sr = s.sr :=
  by unfold State.landEarly; split <;> simp
@[simp] theorem State.landEarly_cause (s : State) : (s.landEarly).cause = s.cause :=
  by unfold State.landEarly; split <;> simp
@[simp] theorem State.landEarly_epc (s : State) : (s.landEarly).epc = s.epc :=
  by unfold State.landEarly; split <;> simp
@[simp] theorem State.landEarly_badVAddr (s : State) : (s.landEarly).badVAddr = s.badVAddr :=
  by unfold State.landEarly; split <;> simp
@[simp] theorem State.landEarly_cpr (s : State) : (s.landEarly).cpr = s.cpr :=
  by unfold State.landEarly; split <;> simp
@[simp] theorem State.landEarly_mem (s : State) : (s.landEarly).mem = s.mem :=
  by unfold State.landEarly; split <;> simp
@[simp] theorem State.landEarly_stored (s : State) : (s.landEarly).stored = s.stored :=
  by unfold State.landEarly; split <;> simp
@[simp] theorem State.landEarly_loadPending (s : State) : (s.landEarly).loadPending = s.loadPending :=
  by unfold State.landEarly; split <;> simp
@[simp] theorem State.landEarly_mfHi (s : State) : (s.landEarly).mfHi = s.mfHi :=
  by unfold State.landEarly; split <;> simp
@[simp] theorem State.landEarly_mfLo (s : State) : (s.landEarly).mfLo = s.mfLo :=
  by unfold State.landEarly; split <;> simp
@[simp] theorem State.landEarly_mdFresh (s : State) : (s.landEarly).mdFresh = s.mdFresh :=
  by unfold State.landEarly; split <;> simp
@[simp] theorem State.landEarly_cpcPrev (s : State) : (s.landEarly).cpcPrev = s.cpcPrev :=
  by unfold State.landEarly; split <;> simp
@[simp] theorem State.landEarly_mtcShadow (s : State) : (s.landEarly).mtcShadow = s.mtcShadow :=
  by unfold State.landEarly; split <;> simp
@[simp] theorem State.landEarly_lastWasMem (s : State) : (s.landEarly).lastWasMem = s.lastWasMem :=
  by unfold State.landEarly; split <;> simp
@[simp] theorem State.landEarly_pins (s : State) : (s.landEarly).pins = s.pins :=
  by unfold State.landEarly; split <;> simp
@[simp] theorem State.landEarly_nextPins (s : State) : (s.landEarly).nextPins = s.nextPins :=
  by unfold State.landEarly; split <;> simp
@[simp] theorem State.landEarly_freeTick (s : State) : (s.landEarly).freeTick = s.freeTick :=
  by unfold State.landEarly; split <;> simp

/-! ### dropPending -/

@[simp] theorem State.dropPending_cfg (s : State) (r : Reg) : (s.dropPending r).cfg = s.cfg :=
  by unfold State.dropPending; split <;> rfl
@[simp] theorem State.dropPending_gpr (s : State) (r : Reg) : (s.dropPending r).gpr = s.gpr :=
  by unfold State.dropPending; split <;> rfl
@[simp] theorem State.dropPending_pc (s : State) (r : Reg) : (s.dropPending r).pc = s.pc :=
  by unfold State.dropPending; split <;> rfl
@[simp] theorem State.dropPending_npc (s : State) (r : Reg) : (s.dropPending r).npc = s.npc :=
  by unfold State.dropPending; split <;> rfl
@[simp] theorem State.dropPending_inDelaySlot (s : State) (r : Reg) : (s.dropPending r).inDelaySlot = s.inDelaySlot :=
  by unfold State.dropPending; split <;> rfl
@[simp] theorem State.dropPending_hi (s : State) (r : Reg) : (s.dropPending r).hi = s.hi :=
  by unfold State.dropPending; split <;> rfl
@[simp] theorem State.dropPending_lo (s : State) (r : Reg) : (s.dropPending r).lo = s.lo :=
  by unfold State.dropPending; split <;> rfl
@[simp] theorem State.dropPending_sr (s : State) (r : Reg) : (s.dropPending r).sr = s.sr :=
  by unfold State.dropPending; split <;> rfl
@[simp] theorem State.dropPending_cause (s : State) (r : Reg) : (s.dropPending r).cause = s.cause :=
  by unfold State.dropPending; split <;> rfl
@[simp] theorem State.dropPending_epc (s : State) (r : Reg) : (s.dropPending r).epc = s.epc :=
  by unfold State.dropPending; split <;> rfl
@[simp] theorem State.dropPending_badVAddr (s : State) (r : Reg) : (s.dropPending r).badVAddr = s.badVAddr :=
  by unfold State.dropPending; split <;> rfl
@[simp] theorem State.dropPending_cpr (s : State) (r : Reg) : (s.dropPending r).cpr = s.cpr :=
  by unfold State.dropPending; split <;> rfl
@[simp] theorem State.dropPending_mem (s : State) (r : Reg) : (s.dropPending r).mem = s.mem :=
  by unfold State.dropPending; split <;> rfl
@[simp] theorem State.dropPending_stored (s : State) (r : Reg) : (s.dropPending r).stored = s.stored :=
  by unfold State.dropPending; split <;> rfl
@[simp] theorem State.dropPending_mfHi (s : State) (r : Reg) : (s.dropPending r).mfHi = s.mfHi :=
  by unfold State.dropPending; split <;> rfl
@[simp] theorem State.dropPending_mfLo (s : State) (r : Reg) : (s.dropPending r).mfLo = s.mfLo :=
  by unfold State.dropPending; split <;> rfl
@[simp] theorem State.dropPending_mdFresh (s : State) (r : Reg) : (s.dropPending r).mdFresh = s.mdFresh :=
  by unfold State.dropPending; split <;> rfl
@[simp] theorem State.dropPending_cpcPrev (s : State) (r : Reg) : (s.dropPending r).cpcPrev = s.cpcPrev :=
  by unfold State.dropPending; split <;> rfl
@[simp] theorem State.dropPending_mtcShadow (s : State) (r : Reg) : (s.dropPending r).mtcShadow = s.mtcShadow :=
  by unfold State.dropPending; split <;> rfl
@[simp] theorem State.dropPending_lastWasMem (s : State) (r : Reg) : (s.dropPending r).lastWasMem = s.lastWasMem :=
  by unfold State.dropPending; split <;> rfl
@[simp] theorem State.dropPending_pins (s : State) (r : Reg) : (s.dropPending r).pins = s.pins :=
  by unfold State.dropPending; split <;> rfl
@[simp] theorem State.dropPending_nextPins (s : State) (r : Reg) : (s.dropPending r).nextPins = s.nextPins :=
  by unfold State.dropPending; split <;> rfl
@[simp] theorem State.dropPending_freeTick (s : State) (r : Reg) : (s.dropPending r).freeTick = s.freeTick :=
  by unfold State.dropPending; split <;> rfl

/-! ### setPending -/

@[simp] theorem State.setPending_cfg (s : State) (r : Reg) (v : Word) : (s.setPending r v).cfg = s.cfg :=
  rfl
@[simp] theorem State.setPending_gpr (s : State) (r : Reg) (v : Word) : (s.setPending r v).gpr = s.gpr :=
  rfl
@[simp] theorem State.setPending_pc (s : State) (r : Reg) (v : Word) : (s.setPending r v).pc = s.pc :=
  rfl
@[simp] theorem State.setPending_npc (s : State) (r : Reg) (v : Word) : (s.setPending r v).npc = s.npc :=
  rfl
@[simp] theorem State.setPending_inDelaySlot (s : State) (r : Reg) (v : Word) : (s.setPending r v).inDelaySlot = s.inDelaySlot :=
  rfl
@[simp] theorem State.setPending_hi (s : State) (r : Reg) (v : Word) : (s.setPending r v).hi = s.hi :=
  rfl
@[simp] theorem State.setPending_lo (s : State) (r : Reg) (v : Word) : (s.setPending r v).lo = s.lo :=
  rfl
@[simp] theorem State.setPending_sr (s : State) (r : Reg) (v : Word) : (s.setPending r v).sr = s.sr :=
  rfl
@[simp] theorem State.setPending_cause (s : State) (r : Reg) (v : Word) : (s.setPending r v).cause = s.cause :=
  rfl
@[simp] theorem State.setPending_epc (s : State) (r : Reg) (v : Word) : (s.setPending r v).epc = s.epc :=
  rfl
@[simp] theorem State.setPending_badVAddr (s : State) (r : Reg) (v : Word) : (s.setPending r v).badVAddr = s.badVAddr :=
  rfl
@[simp] theorem State.setPending_cpr (s : State) (r : Reg) (v : Word) : (s.setPending r v).cpr = s.cpr :=
  rfl
@[simp] theorem State.setPending_mem (s : State) (r : Reg) (v : Word) : (s.setPending r v).mem = s.mem :=
  rfl
@[simp] theorem State.setPending_stored (s : State) (r : Reg) (v : Word) : (s.setPending r v).stored = s.stored :=
  rfl
@[simp] theorem State.setPending_loadPending (s : State) (r : Reg) (v : Word) : (s.setPending r v).loadPending = if r = 0#5 then none else some (r, v) :=
  rfl
@[simp] theorem State.setPending_mfHi (s : State) (r : Reg) (v : Word) : (s.setPending r v).mfHi = s.mfHi :=
  rfl
@[simp] theorem State.setPending_mfLo (s : State) (r : Reg) (v : Word) : (s.setPending r v).mfLo = s.mfLo :=
  rfl
@[simp] theorem State.setPending_mdFresh (s : State) (r : Reg) (v : Word) : (s.setPending r v).mdFresh = s.mdFresh :=
  rfl
@[simp] theorem State.setPending_cpcPrev (s : State) (r : Reg) (v : Word) : (s.setPending r v).cpcPrev = s.cpcPrev :=
  rfl
@[simp] theorem State.setPending_mtcShadow (s : State) (r : Reg) (v : Word) : (s.setPending r v).mtcShadow = s.mtcShadow :=
  rfl
@[simp] theorem State.setPending_lastWasMem (s : State) (r : Reg) (v : Word) : (s.setPending r v).lastWasMem = s.lastWasMem :=
  rfl
@[simp] theorem State.setPending_pins (s : State) (r : Reg) (v : Word) : (s.setPending r v).pins = s.pins :=
  rfl
@[simp] theorem State.setPending_nextPins (s : State) (r : Reg) (v : Word) : (s.setPending r v).nextPins = s.nextPins :=
  rfl
@[simp] theorem State.setPending_freeTick (s : State) (r : Reg) (v : Word) : (s.setPending r v).freeTick = s.freeTick :=
  rfl

/-! ### retire -/

@[simp] theorem State.retire_cfg (s : State) (n : Word) (b m : Bool) : (s.retire n b m).cfg = s.cfg :=
  by simp [State.retire]
@[simp] theorem State.retire_gpr (s : State) (n : Word) (b m : Bool) : (s.retire n b m).gpr = s.land.gpr :=
  by simp [State.retire]
@[simp] theorem State.retire_pc (s : State) (n : Word) (b m : Bool) : (s.retire n b m).pc = s.npc :=
  by simp [State.retire]
@[simp] theorem State.retire_npc (s : State) (n : Word) (b m : Bool) : (s.retire n b m).npc = n :=
  by simp [State.retire]
@[simp] theorem State.retire_inDelaySlot (s : State) (n : Word) (b m : Bool) : (s.retire n b m).inDelaySlot = b :=
  by simp [State.retire]
@[simp] theorem State.retire_hi (s : State) (n : Word) (b m : Bool) : (s.retire n b m).hi = s.hi :=
  by simp [State.retire]
@[simp] theorem State.retire_lo (s : State) (n : Word) (b m : Bool) : (s.retire n b m).lo = s.lo :=
  by simp [State.retire]
@[simp] theorem State.retire_sr (s : State) (n : Word) (b m : Bool) : (s.retire n b m).sr = s.sr :=
  by simp [State.retire]
@[simp] theorem State.retire_cause (s : State) (n : Word) (b m : Bool) : (s.retire n b m).cause = s.cause :=
  by simp [State.retire]
@[simp] theorem State.retire_epc (s : State) (n : Word) (b m : Bool) : (s.retire n b m).epc = s.epc :=
  by simp [State.retire]
@[simp] theorem State.retire_badVAddr (s : State) (n : Word) (b m : Bool) : (s.retire n b m).badVAddr = s.badVAddr :=
  by simp [State.retire]
@[simp] theorem State.retire_cpr (s : State) (n : Word) (b m : Bool) : (s.retire n b m).cpr = s.cpr :=
  by simp [State.retire]
@[simp] theorem State.retire_mem (s : State) (n : Word) (b m : Bool) : (s.retire n b m).mem = s.mem :=
  by simp [State.retire]
@[simp] theorem State.retire_stored (s : State) (n : Word) (b m : Bool) : (s.retire n b m).stored = s.stored :=
  by simp [State.retire]
@[simp] theorem State.retire_loadPending (s : State) (n : Word) (b m : Bool) : (s.retire n b m).loadPending = none :=
  by simp [State.retire]
@[simp] theorem State.retire_mfHi (s : State) (n : Word) (b m : Bool) : (s.retire n b m).mfHi = ageMf s.mfHi :=
  by simp [State.retire]
@[simp] theorem State.retire_mfLo (s : State) (n : Word) (b m : Bool) : (s.retire n b m).mfLo = ageMf s.mfLo :=
  by simp [State.retire]
@[simp] theorem State.retire_mdFresh (s : State) (n : Word) (b m : Bool) : (s.retire n b m).mdFresh = s.mdFresh :=
  by simp [State.retire]
@[simp] theorem State.retire_cpcPrev (s : State) (n : Word) (b m : Bool) : (s.retire n b m).cpcPrev = s.cpcPrev :=
  by simp [State.retire]
@[simp] theorem State.retire_mtcShadow (s : State) (n : Word) (b m : Bool) : (s.retire n b m).mtcShadow = none :=
  by simp [State.retire]
@[simp] theorem State.retire_lastWasMem (s : State) (n : Word) (b m : Bool) : (s.retire n b m).lastWasMem = m :=
  by simp [State.retire]
@[simp] theorem State.retire_pins (s : State) (n : Word) (b m : Bool) : (s.retire n b m).pins = s.pins :=
  by simp [State.retire]
@[simp] theorem State.retire_nextPins (s : State) (n : Word) (b m : Bool) : (s.retire n b m).nextPins = s.nextPins :=
  by simp [State.retire]
@[simp] theorem State.retire_freeTick (s : State) (n : Word) (b m : Bool) : (s.retire n b m).freeTick = s.freeTick :=
  by simp [State.retire]

/-! ### completion in sequence -/

@[simp] theorem State.retireSeq_cfg (s : State) : (s.retireSeq).cfg = s.cfg := by simp [State.retireSeq]
@[simp] theorem State.retireSeq_gpr (s : State) : (s.retireSeq).gpr = s.land.gpr :=
  by simp [State.retireSeq]
@[simp] theorem State.retireSeq_pc (s : State) : (s.retireSeq).pc = s.npc := by simp [State.retireSeq]
@[simp] theorem State.retireSeq_npc (s : State) : (s.retireSeq).npc = s.npc + 4#32 :=
  by simp [State.retireSeq]
@[simp] theorem State.retireSeq_inDelaySlot (s : State) : (s.retireSeq).inDelaySlot = false :=
  by simp [State.retireSeq]
@[simp] theorem State.retireSeq_hi (s : State) : (s.retireSeq).hi = s.hi := by simp [State.retireSeq]
@[simp] theorem State.retireSeq_lo (s : State) : (s.retireSeq).lo = s.lo := by simp [State.retireSeq]
@[simp] theorem State.retireSeq_sr (s : State) : (s.retireSeq).sr = s.sr := by simp [State.retireSeq]
@[simp] theorem State.retireSeq_cause (s : State) : (s.retireSeq).cause = s.cause :=
  by simp [State.retireSeq]
@[simp] theorem State.retireSeq_epc (s : State) : (s.retireSeq).epc = s.epc := by simp [State.retireSeq]
@[simp] theorem State.retireSeq_badVAddr (s : State) : (s.retireSeq).badVAddr = s.badVAddr :=
  by simp [State.retireSeq]
@[simp] theorem State.retireSeq_cpr (s : State) : (s.retireSeq).cpr = s.cpr := by simp [State.retireSeq]
@[simp] theorem State.retireSeq_mem (s : State) : (s.retireSeq).mem = s.mem := by simp [State.retireSeq]
@[simp] theorem State.retireSeq_stored (s : State) : (s.retireSeq).stored = s.stored :=
  by simp [State.retireSeq]
@[simp] theorem State.retireSeq_loadPending (s : State) : (s.retireSeq).loadPending = none :=
  by simp [State.retireSeq]
@[simp] theorem State.retireSeq_mfHi (s : State) : (s.retireSeq).mfHi = ageMf s.mfHi :=
  by simp [State.retireSeq]
@[simp] theorem State.retireSeq_mfLo (s : State) : (s.retireSeq).mfLo = ageMf s.mfLo :=
  by simp [State.retireSeq]
@[simp] theorem State.retireSeq_mdFresh (s : State) : (s.retireSeq).mdFresh = s.mdFresh :=
  by simp [State.retireSeq]
@[simp] theorem State.retireSeq_cpcPrev (s : State) : (s.retireSeq).cpcPrev = s.cpcPrev :=
  by simp [State.retireSeq]
@[simp] theorem State.retireSeq_mtcShadow (s : State) : (s.retireSeq).mtcShadow = none :=
  by simp [State.retireSeq]
@[simp] theorem State.retireSeq_lastWasMem (s : State) : (s.retireSeq).lastWasMem = false :=
  by simp [State.retireSeq]
@[simp] theorem State.retireSeq_pins (s : State) : (s.retireSeq).pins = s.pins :=
  by simp [State.retireSeq]
@[simp] theorem State.retireSeq_nextPins (s : State) : (s.retireSeq).nextPins = s.nextPins :=
  by simp [State.retireSeq]
@[simp] theorem State.retireSeq_freeTick (s : State) : (s.retireSeq).freeTick = s.freeTick :=
  by simp [State.retireSeq]
@[simp] theorem State.retireMem_cfg (s : State) : (s.retireMem).cfg = s.cfg := by simp [State.retireMem]
@[simp] theorem State.retireMem_gpr (s : State) : (s.retireMem).gpr = s.land.gpr :=
  by simp [State.retireMem]
@[simp] theorem State.retireMem_pc (s : State) : (s.retireMem).pc = s.npc := by simp [State.retireMem]
@[simp] theorem State.retireMem_npc (s : State) : (s.retireMem).npc = s.npc + 4#32 :=
  by simp [State.retireMem]
@[simp] theorem State.retireMem_inDelaySlot (s : State) : (s.retireMem).inDelaySlot = false :=
  by simp [State.retireMem]
@[simp] theorem State.retireMem_hi (s : State) : (s.retireMem).hi = s.hi := by simp [State.retireMem]
@[simp] theorem State.retireMem_lo (s : State) : (s.retireMem).lo = s.lo := by simp [State.retireMem]
@[simp] theorem State.retireMem_sr (s : State) : (s.retireMem).sr = s.sr := by simp [State.retireMem]
@[simp] theorem State.retireMem_cause (s : State) : (s.retireMem).cause = s.cause :=
  by simp [State.retireMem]
@[simp] theorem State.retireMem_epc (s : State) : (s.retireMem).epc = s.epc := by simp [State.retireMem]
@[simp] theorem State.retireMem_badVAddr (s : State) : (s.retireMem).badVAddr = s.badVAddr :=
  by simp [State.retireMem]
@[simp] theorem State.retireMem_cpr (s : State) : (s.retireMem).cpr = s.cpr := by simp [State.retireMem]
@[simp] theorem State.retireMem_mem (s : State) : (s.retireMem).mem = s.mem := by simp [State.retireMem]
@[simp] theorem State.retireMem_stored (s : State) : (s.retireMem).stored = s.stored :=
  by simp [State.retireMem]
@[simp] theorem State.retireMem_loadPending (s : State) : (s.retireMem).loadPending = none :=
  by simp [State.retireMem]
@[simp] theorem State.retireMem_mfHi (s : State) : (s.retireMem).mfHi = ageMf s.mfHi :=
  by simp [State.retireMem]
@[simp] theorem State.retireMem_mfLo (s : State) : (s.retireMem).mfLo = ageMf s.mfLo :=
  by simp [State.retireMem]
@[simp] theorem State.retireMem_mdFresh (s : State) : (s.retireMem).mdFresh = s.mdFresh :=
  by simp [State.retireMem]
@[simp] theorem State.retireMem_cpcPrev (s : State) : (s.retireMem).cpcPrev = s.cpcPrev :=
  by simp [State.retireMem]
@[simp] theorem State.retireMem_mtcShadow (s : State) : (s.retireMem).mtcShadow = none :=
  by simp [State.retireMem]
@[simp] theorem State.retireMem_lastWasMem (s : State) : (s.retireMem).lastWasMem = true :=
  by simp [State.retireMem]
@[simp] theorem State.retireMem_pins (s : State) : (s.retireMem).pins = s.pins :=
  by simp [State.retireMem]
@[simp] theorem State.retireMem_nextPins (s : State) : (s.retireMem).nextPins = s.nextPins :=
  by simp [State.retireMem]
@[simp] theorem State.retireMem_freeTick (s : State) : (s.retireMem).freeTick = s.freeTick :=
  by simp [State.retireMem]
@[simp] theorem State.retireBranch_cfg (s : State) (c : Bool) (a : Word) : (s.retireBranch c a).cfg = s.cfg :=
  by simp [State.retireBranch]
@[simp] theorem State.retireBranch_gpr (s : State) (c : Bool) (a : Word) : (s.retireBranch c a).gpr = s.land.gpr :=
  by simp [State.retireBranch]
@[simp] theorem State.retireBranch_pc (s : State) (c : Bool) (a : Word) : (s.retireBranch c a).pc = s.npc :=
  by simp [State.retireBranch]
@[simp] theorem State.retireBranch_npc (s : State) (c : Bool) (a : Word) : (s.retireBranch c a).npc = if c then a else s.npc + 4#32 :=
  by simp [State.retireBranch]
@[simp] theorem State.retireBranch_inDelaySlot (s : State) (c : Bool) (a : Word) : (s.retireBranch c a).inDelaySlot = true :=
  by simp [State.retireBranch]
@[simp] theorem State.retireBranch_hi (s : State) (c : Bool) (a : Word) : (s.retireBranch c a).hi = s.hi :=
  by simp [State.retireBranch]
@[simp] theorem State.retireBranch_lo (s : State) (c : Bool) (a : Word) : (s.retireBranch c a).lo = s.lo :=
  by simp [State.retireBranch]
@[simp] theorem State.retireBranch_sr (s : State) (c : Bool) (a : Word) : (s.retireBranch c a).sr = s.sr :=
  by simp [State.retireBranch]
@[simp] theorem State.retireBranch_cause (s : State) (c : Bool) (a : Word) : (s.retireBranch c a).cause = s.cause :=
  by simp [State.retireBranch]
@[simp] theorem State.retireBranch_epc (s : State) (c : Bool) (a : Word) : (s.retireBranch c a).epc = s.epc :=
  by simp [State.retireBranch]
@[simp] theorem State.retireBranch_badVAddr (s : State) (c : Bool) (a : Word) : (s.retireBranch c a).badVAddr = s.badVAddr :=
  by simp [State.retireBranch]
@[simp] theorem State.retireBranch_cpr (s : State) (c : Bool) (a : Word) : (s.retireBranch c a).cpr = s.cpr :=
  by simp [State.retireBranch]
@[simp] theorem State.retireBranch_mem (s : State) (c : Bool) (a : Word) : (s.retireBranch c a).mem = s.mem :=
  by simp [State.retireBranch]
@[simp] theorem State.retireBranch_stored (s : State) (c : Bool) (a : Word) : (s.retireBranch c a).stored = s.stored :=
  by simp [State.retireBranch]
@[simp] theorem State.retireBranch_loadPending (s : State) (c : Bool) (a : Word) : (s.retireBranch c a).loadPending = none :=
  by simp [State.retireBranch]
@[simp] theorem State.retireBranch_mfHi (s : State) (c : Bool) (a : Word) : (s.retireBranch c a).mfHi = ageMf s.mfHi :=
  by simp [State.retireBranch]
@[simp] theorem State.retireBranch_mfLo (s : State) (c : Bool) (a : Word) : (s.retireBranch c a).mfLo = ageMf s.mfLo :=
  by simp [State.retireBranch]
@[simp] theorem State.retireBranch_mdFresh (s : State) (c : Bool) (a : Word) : (s.retireBranch c a).mdFresh = s.mdFresh :=
  by simp [State.retireBranch]
@[simp] theorem State.retireBranch_cpcPrev (s : State) (c : Bool) (a : Word) : (s.retireBranch c a).cpcPrev = s.cpcPrev :=
  by simp [State.retireBranch]
@[simp] theorem State.retireBranch_mtcShadow (s : State) (c : Bool) (a : Word) : (s.retireBranch c a).mtcShadow = none :=
  by simp [State.retireBranch]
@[simp] theorem State.retireBranch_lastWasMem (s : State) (c : Bool) (a : Word) : (s.retireBranch c a).lastWasMem = false :=
  by simp [State.retireBranch]
@[simp] theorem State.retireBranch_pins (s : State) (c : Bool) (a : Word) : (s.retireBranch c a).pins = s.pins :=
  by simp [State.retireBranch]
@[simp] theorem State.retireBranch_nextPins (s : State) (c : Bool) (a : Word) : (s.retireBranch c a).nextPins = s.nextPins :=
  by simp [State.retireBranch]
@[simp] theorem State.retireBranch_freeTick (s : State) (c : Bool) (a : Word) : (s.retireBranch c a).freeTick = s.freeTick :=
  by simp [State.retireBranch]
@[simp] theorem State.retireLoad_cfg (s : State) (r : Reg) (v : Word) : (s.retireLoad r v).cfg = s.cfg :=
  by simp [State.retireLoad]
@[simp] theorem State.retireLoad_gpr (s : State) (r : Reg) (v : Word) : (s.retireLoad r v).gpr = (s.dropPending r).land.gpr :=
  by simp [State.retireLoad]
@[simp] theorem State.retireLoad_pc (s : State) (r : Reg) (v : Word) : (s.retireLoad r v).pc = s.npc :=
  by simp [State.retireLoad]
@[simp] theorem State.retireLoad_npc (s : State) (r : Reg) (v : Word) : (s.retireLoad r v).npc = s.npc + 4#32 :=
  by simp [State.retireLoad]
@[simp] theorem State.retireLoad_inDelaySlot (s : State) (r : Reg) (v : Word) : (s.retireLoad r v).inDelaySlot = false :=
  by simp [State.retireLoad]
@[simp] theorem State.retireLoad_hi (s : State) (r : Reg) (v : Word) : (s.retireLoad r v).hi = s.hi :=
  by simp [State.retireLoad]
@[simp] theorem State.retireLoad_lo (s : State) (r : Reg) (v : Word) : (s.retireLoad r v).lo = s.lo :=
  by simp [State.retireLoad]
@[simp] theorem State.retireLoad_sr (s : State) (r : Reg) (v : Word) : (s.retireLoad r v).sr = s.sr :=
  by simp [State.retireLoad]
@[simp] theorem State.retireLoad_cause (s : State) (r : Reg) (v : Word) : (s.retireLoad r v).cause = s.cause :=
  by simp [State.retireLoad]
@[simp] theorem State.retireLoad_epc (s : State) (r : Reg) (v : Word) : (s.retireLoad r v).epc = s.epc :=
  by simp [State.retireLoad]
@[simp] theorem State.retireLoad_badVAddr (s : State) (r : Reg) (v : Word) : (s.retireLoad r v).badVAddr = s.badVAddr :=
  by simp [State.retireLoad]
@[simp] theorem State.retireLoad_cpr (s : State) (r : Reg) (v : Word) : (s.retireLoad r v).cpr = s.cpr :=
  by simp [State.retireLoad]
@[simp] theorem State.retireLoad_mem (s : State) (r : Reg) (v : Word) : (s.retireLoad r v).mem = s.mem :=
  by simp [State.retireLoad]
@[simp] theorem State.retireLoad_stored (s : State) (r : Reg) (v : Word) : (s.retireLoad r v).stored = s.stored :=
  by simp [State.retireLoad]
@[simp] theorem State.retireLoad_loadPending (s : State) (r : Reg) (v : Word) : (s.retireLoad r v).loadPending = if r = 0#5 then none else some (r, v) :=
  by simp [State.retireLoad]
@[simp] theorem State.retireLoad_mfHi (s : State) (r : Reg) (v : Word) : (s.retireLoad r v).mfHi = ageMf s.mfHi :=
  by simp [State.retireLoad]
@[simp] theorem State.retireLoad_mfLo (s : State) (r : Reg) (v : Word) : (s.retireLoad r v).mfLo = ageMf s.mfLo :=
  by simp [State.retireLoad]
@[simp] theorem State.retireLoad_mdFresh (s : State) (r : Reg) (v : Word) : (s.retireLoad r v).mdFresh = s.mdFresh :=
  by simp [State.retireLoad]
@[simp] theorem State.retireLoad_cpcPrev (s : State) (r : Reg) (v : Word) : (s.retireLoad r v).cpcPrev = s.cpcPrev :=
  by simp [State.retireLoad]
@[simp] theorem State.retireLoad_mtcShadow (s : State) (r : Reg) (v : Word) : (s.retireLoad r v).mtcShadow = none :=
  by simp [State.retireLoad]
@[simp] theorem State.retireLoad_lastWasMem (s : State) (r : Reg) (v : Word) : (s.retireLoad r v).lastWasMem = true :=
  by simp [State.retireLoad]
@[simp] theorem State.retireLoad_pins (s : State) (r : Reg) (v : Word) : (s.retireLoad r v).pins = s.pins :=
  by simp [State.retireLoad]
@[simp] theorem State.retireLoad_nextPins (s : State) (r : Reg) (v : Word) : (s.retireLoad r v).nextPins = s.nextPins :=
  by simp [State.retireLoad]
@[simp] theorem State.retireLoad_freeTick (s : State) (r : Reg) (v : Word) : (s.retireLoad r v).freeTick = s.freeTick :=
  by simp [State.retireLoad]
@[simp] theorem State.retireMove_cfg (s : State) (r : Reg) (v : Word) : (s.retireMove r v).cfg = s.cfg :=
  by simp [State.retireMove]
@[simp] theorem State.retireMove_gpr (s : State) (r : Reg) (v : Word) : (s.retireMove r v).gpr = (s.dropPending r).land.gpr :=
  by simp [State.retireMove]
@[simp] theorem State.retireMove_pc (s : State) (r : Reg) (v : Word) : (s.retireMove r v).pc = s.npc :=
  by simp [State.retireMove]
@[simp] theorem State.retireMove_npc (s : State) (r : Reg) (v : Word) : (s.retireMove r v).npc = s.npc + 4#32 :=
  by simp [State.retireMove]
@[simp] theorem State.retireMove_inDelaySlot (s : State) (r : Reg) (v : Word) : (s.retireMove r v).inDelaySlot = false :=
  by simp [State.retireMove]
@[simp] theorem State.retireMove_hi (s : State) (r : Reg) (v : Word) : (s.retireMove r v).hi = s.hi :=
  by simp [State.retireMove]
@[simp] theorem State.retireMove_lo (s : State) (r : Reg) (v : Word) : (s.retireMove r v).lo = s.lo :=
  by simp [State.retireMove]
@[simp] theorem State.retireMove_sr (s : State) (r : Reg) (v : Word) : (s.retireMove r v).sr = s.sr :=
  by simp [State.retireMove]
@[simp] theorem State.retireMove_cause (s : State) (r : Reg) (v : Word) : (s.retireMove r v).cause = s.cause :=
  by simp [State.retireMove]
@[simp] theorem State.retireMove_epc (s : State) (r : Reg) (v : Word) : (s.retireMove r v).epc = s.epc :=
  by simp [State.retireMove]
@[simp] theorem State.retireMove_badVAddr (s : State) (r : Reg) (v : Word) : (s.retireMove r v).badVAddr = s.badVAddr :=
  by simp [State.retireMove]
@[simp] theorem State.retireMove_cpr (s : State) (r : Reg) (v : Word) : (s.retireMove r v).cpr = s.cpr :=
  by simp [State.retireMove]
@[simp] theorem State.retireMove_mem (s : State) (r : Reg) (v : Word) : (s.retireMove r v).mem = s.mem :=
  by simp [State.retireMove]
@[simp] theorem State.retireMove_stored (s : State) (r : Reg) (v : Word) : (s.retireMove r v).stored = s.stored :=
  by simp [State.retireMove]
@[simp] theorem State.retireMove_loadPending (s : State) (r : Reg) (v : Word) : (s.retireMove r v).loadPending = if r = 0#5 then none else some (r, v) :=
  by simp [State.retireMove]
@[simp] theorem State.retireMove_mfHi (s : State) (r : Reg) (v : Word) : (s.retireMove r v).mfHi = ageMf s.mfHi :=
  by simp [State.retireMove]
@[simp] theorem State.retireMove_mfLo (s : State) (r : Reg) (v : Word) : (s.retireMove r v).mfLo = ageMf s.mfLo :=
  by simp [State.retireMove]
@[simp] theorem State.retireMove_mdFresh (s : State) (r : Reg) (v : Word) : (s.retireMove r v).mdFresh = s.mdFresh :=
  by simp [State.retireMove]
@[simp] theorem State.retireMove_cpcPrev (s : State) (r : Reg) (v : Word) : (s.retireMove r v).cpcPrev = s.cpcPrev :=
  by simp [State.retireMove]
@[simp] theorem State.retireMove_mtcShadow (s : State) (r : Reg) (v : Word) : (s.retireMove r v).mtcShadow = none :=
  by simp [State.retireMove]
@[simp] theorem State.retireMove_lastWasMem (s : State) (r : Reg) (v : Word) : (s.retireMove r v).lastWasMem = false :=
  by simp [State.retireMove]
@[simp] theorem State.retireMove_pins (s : State) (r : Reg) (v : Word) : (s.retireMove r v).pins = s.pins :=
  by simp [State.retireMove]
@[simp] theorem State.retireMove_nextPins (s : State) (r : Reg) (v : Word) : (s.retireMove r v).nextPins = s.nextPins :=
  by simp [State.retireMove]
@[simp] theorem State.retireMove_freeTick (s : State) (r : Reg) (v : Word) : (s.retireMove r v).freeTick = s.freeTick :=
  by simp [State.retireMove]
@[simp] theorem State.retireReg_cfg (s : State) (r : Reg) (v : Word) : (s.retireReg r v).cfg = s.cfg :=
  by simp [State.retireReg]
@[simp] theorem State.retireReg_pc (s : State) (r : Reg) (v : Word) : (s.retireReg r v).pc = s.npc :=
  by simp [State.retireReg]
@[simp] theorem State.retireReg_npc (s : State) (r : Reg) (v : Word) : (s.retireReg r v).npc = s.npc + 4#32 :=
  by simp [State.retireReg]
@[simp] theorem State.retireReg_inDelaySlot (s : State) (r : Reg) (v : Word) : (s.retireReg r v).inDelaySlot = false :=
  by simp [State.retireReg]
@[simp] theorem State.retireReg_hi (s : State) (r : Reg) (v : Word) : (s.retireReg r v).hi = s.hi :=
  by simp [State.retireReg]
@[simp] theorem State.retireReg_lo (s : State) (r : Reg) (v : Word) : (s.retireReg r v).lo = s.lo :=
  by simp [State.retireReg]
@[simp] theorem State.retireReg_sr (s : State) (r : Reg) (v : Word) : (s.retireReg r v).sr = s.sr :=
  by simp [State.retireReg]
@[simp] theorem State.retireReg_cause (s : State) (r : Reg) (v : Word) : (s.retireReg r v).cause = s.cause :=
  by simp [State.retireReg]
@[simp] theorem State.retireReg_epc (s : State) (r : Reg) (v : Word) : (s.retireReg r v).epc = s.epc :=
  by simp [State.retireReg]
@[simp] theorem State.retireReg_badVAddr (s : State) (r : Reg) (v : Word) : (s.retireReg r v).badVAddr = s.badVAddr :=
  by simp [State.retireReg]
@[simp] theorem State.retireReg_cpr (s : State) (r : Reg) (v : Word) : (s.retireReg r v).cpr = s.cpr :=
  by simp [State.retireReg]
@[simp] theorem State.retireReg_mem (s : State) (r : Reg) (v : Word) : (s.retireReg r v).mem = s.mem :=
  by simp [State.retireReg]
@[simp] theorem State.retireReg_stored (s : State) (r : Reg) (v : Word) : (s.retireReg r v).stored = s.stored :=
  by simp [State.retireReg]
@[simp] theorem State.retireReg_loadPending (s : State) (r : Reg) (v : Word) : (s.retireReg r v).loadPending = none :=
  by simp [State.retireReg]
@[simp] theorem State.retireReg_mfHi (s : State) (r : Reg) (v : Word) : (s.retireReg r v).mfHi = ageMf s.mfHi :=
  by simp [State.retireReg]
@[simp] theorem State.retireReg_mfLo (s : State) (r : Reg) (v : Word) : (s.retireReg r v).mfLo = ageMf s.mfLo :=
  by simp [State.retireReg]
@[simp] theorem State.retireReg_mdFresh (s : State) (r : Reg) (v : Word) : (s.retireReg r v).mdFresh = s.mdFresh :=
  by simp [State.retireReg]
@[simp] theorem State.retireReg_cpcPrev (s : State) (r : Reg) (v : Word) : (s.retireReg r v).cpcPrev = s.cpcPrev :=
  by simp [State.retireReg]
@[simp] theorem State.retireReg_mtcShadow (s : State) (r : Reg) (v : Word) : (s.retireReg r v).mtcShadow = none :=
  by simp [State.retireReg]
@[simp] theorem State.retireReg_lastWasMem (s : State) (r : Reg) (v : Word) : (s.retireReg r v).lastWasMem = false :=
  by simp [State.retireReg]
@[simp] theorem State.retireReg_pins (s : State) (r : Reg) (v : Word) : (s.retireReg r v).pins = s.pins :=
  by simp [State.retireReg]
@[simp] theorem State.retireReg_nextPins (s : State) (r : Reg) (v : Word) : (s.retireReg r v).nextPins = s.nextPins :=
  by simp [State.retireReg]
@[simp] theorem State.retireReg_freeTick (s : State) (r : Reg) (v : Word) : (s.retireReg r v).freeTick = s.freeTick :=
  by simp [State.retireReg]

/-! ### exception entry and return -/

@[simp] theorem State.takeException_cfg (e : Exc) (s : State) : (takeException e s).cfg = s.cfg := rfl
@[simp] theorem State.takeException_gpr (e : Exc) (s : State) : (takeException e s).gpr = s.gpr := rfl
@[simp] theorem State.takeException_pc (e : Exc) (s : State) : (takeException e s).pc = s.excVectorNow :=
  rfl
@[simp] theorem State.takeException_npc (e : Exc) (s : State) : (takeException e s).npc = s.excVectorNow + 4#32 :=
  rfl
@[simp] theorem State.takeException_inDelaySlot (e : Exc) (s : State) : (takeException e s).inDelaySlot = false :=
  rfl
@[simp] theorem State.takeException_hi (e : Exc) (s : State) : (takeException e s).hi = s.hi := rfl
@[simp] theorem State.takeException_lo (e : Exc) (s : State) : (takeException e s).lo = s.lo := rfl
@[simp] theorem State.takeException_sr (e : Exc) (s : State) : (takeException e s).sr = pushStatus s.sr s.srView :=
  rfl
@[simp] theorem State.takeException_cause (e : Exc) (s : State) : (takeException e s).cause = causeAfter s.cause s.inDelaySlot (excCode s.cfg.excCodes e) e :=
  rfl
@[simp] theorem State.takeException_epc (e : Exc) (s : State) : (takeException e s).epc = if s.inDelaySlot then s.pc - 4#32 else s.pc :=
  rfl
@[simp] theorem State.takeException_badVAddr (e : Exc) (s : State) : (takeException e s).badVAddr = badVAddrAfter s.badVAddr e :=
  rfl
@[simp] theorem State.takeException_cpr (e : Exc) (s : State) : (takeException e s).cpr = s.cpr := rfl
@[simp] theorem State.takeException_mem (e : Exc) (s : State) : (takeException e s).mem = s.mem := rfl
@[simp] theorem State.takeException_stored (e : Exc) (s : State) : (takeException e s).stored = s.stored :=
  rfl
@[simp] theorem State.takeException_loadPending (e : Exc) (s : State) : (takeException e s).loadPending = s.loadPending :=
  rfl
@[simp] theorem State.takeException_mfHi (e : Exc) (s : State) : (takeException e s).mfHi = s.mfHi := rfl
@[simp] theorem State.takeException_mfLo (e : Exc) (s : State) : (takeException e s).mfLo = s.mfLo := rfl
@[simp] theorem State.takeException_mdFresh (e : Exc) (s : State) : (takeException e s).mdFresh = s.mdFresh :=
  rfl
@[simp] theorem State.takeException_cpcPrev (e : Exc) (s : State) : (takeException e s).cpcPrev = s.cpcPrev :=
  rfl
@[simp] theorem State.takeException_mtcShadow (e : Exc) (s : State) : (takeException e s).mtcShadow = none :=
  rfl
@[simp] theorem State.takeException_lastWasMem (e : Exc) (s : State) : (takeException e s).lastWasMem = s.lastWasMem :=
  rfl
@[simp] theorem State.takeException_pins (e : Exc) (s : State) : (takeException e s).pins = s.pins := rfl
@[simp] theorem State.takeException_nextPins (e : Exc) (s : State) : (takeException e s).nextPins = s.nextPins :=
  rfl
@[simp] theorem State.takeException_freeTick (e : Exc) (s : State) : (takeException e s).freeTick = s.freeTick :=
  rfl
@[simp] theorem State.returnStatus_cfg (s : State) : (s.returnStatus).cfg = s.cfg := rfl
@[simp] theorem State.returnStatus_gpr (s : State) : (s.returnStatus).gpr = s.gpr := rfl
@[simp] theorem State.returnStatus_pc (s : State) : (s.returnStatus).pc = s.pc := rfl
@[simp] theorem State.returnStatus_npc (s : State) : (s.returnStatus).npc = s.npc := rfl
@[simp] theorem State.returnStatus_inDelaySlot (s : State) : (s.returnStatus).inDelaySlot = s.inDelaySlot :=
  rfl
@[simp] theorem State.returnStatus_hi (s : State) : (s.returnStatus).hi = s.hi := rfl
@[simp] theorem State.returnStatus_lo (s : State) : (s.returnStatus).lo = s.lo := rfl
@[simp] theorem State.returnStatus_sr (s : State) : (s.returnStatus).sr = popStatus s.sr s.srView := rfl
@[simp] theorem State.returnStatus_cause (s : State) : (s.returnStatus).cause = s.cause := rfl
@[simp] theorem State.returnStatus_epc (s : State) : (s.returnStatus).epc = s.epc := rfl
@[simp] theorem State.returnStatus_badVAddr (s : State) : (s.returnStatus).badVAddr = s.badVAddr := rfl
@[simp] theorem State.returnStatus_cpr (s : State) : (s.returnStatus).cpr = s.cpr := rfl
@[simp] theorem State.returnStatus_mem (s : State) : (s.returnStatus).mem = s.mem := rfl
@[simp] theorem State.returnStatus_stored (s : State) : (s.returnStatus).stored = s.stored := rfl
@[simp] theorem State.returnStatus_loadPending (s : State) : (s.returnStatus).loadPending = s.loadPending :=
  rfl
@[simp] theorem State.returnStatus_mfHi (s : State) : (s.returnStatus).mfHi = s.mfHi := rfl
@[simp] theorem State.returnStatus_mfLo (s : State) : (s.returnStatus).mfLo = s.mfLo := rfl
@[simp] theorem State.returnStatus_mdFresh (s : State) : (s.returnStatus).mdFresh = s.mdFresh := rfl
@[simp] theorem State.returnStatus_cpcPrev (s : State) : (s.returnStatus).cpcPrev = s.cpcPrev := rfl
@[simp] theorem State.returnStatus_mtcShadow (s : State) : (s.returnStatus).mtcShadow = s.mtcShadow :=
  rfl
@[simp] theorem State.returnStatus_lastWasMem (s : State) : (s.returnStatus).lastWasMem = s.lastWasMem :=
  rfl
@[simp] theorem State.returnStatus_pins (s : State) : (s.returnStatus).pins = s.pins := rfl
@[simp] theorem State.returnStatus_nextPins (s : State) : (s.returnStatus).nextPins = s.nextPins := rfl
@[simp] theorem State.returnStatus_freeTick (s : State) : (s.returnStatus).freeTick = s.freeTick := rfl

/-! ### stores -/

@[simp] theorem State.storeByte_cfg (s : State) (p : Nat) (b : Byte) : (s.storeByte p b).cfg = s.cfg :=
  rfl
@[simp] theorem State.storeByte_gpr (s : State) (p : Nat) (b : Byte) : (s.storeByte p b).gpr = s.gpr :=
  rfl
@[simp] theorem State.storeByte_pc (s : State) (p : Nat) (b : Byte) : (s.storeByte p b).pc = s.pc := rfl
@[simp] theorem State.storeByte_npc (s : State) (p : Nat) (b : Byte) : (s.storeByte p b).npc = s.npc :=
  rfl
@[simp] theorem State.storeByte_inDelaySlot (s : State) (p : Nat) (b : Byte) : (s.storeByte p b).inDelaySlot = s.inDelaySlot :=
  rfl
@[simp] theorem State.storeByte_hi (s : State) (p : Nat) (b : Byte) : (s.storeByte p b).hi = s.hi := rfl
@[simp] theorem State.storeByte_lo (s : State) (p : Nat) (b : Byte) : (s.storeByte p b).lo = s.lo := rfl
@[simp] theorem State.storeByte_sr (s : State) (p : Nat) (b : Byte) : (s.storeByte p b).sr = s.sr := rfl
@[simp] theorem State.storeByte_cause (s : State) (p : Nat) (b : Byte) : (s.storeByte p b).cause = s.cause :=
  rfl
@[simp] theorem State.storeByte_epc (s : State) (p : Nat) (b : Byte) : (s.storeByte p b).epc = s.epc :=
  rfl
@[simp] theorem State.storeByte_badVAddr (s : State) (p : Nat) (b : Byte) : (s.storeByte p b).badVAddr = s.badVAddr :=
  rfl
@[simp] theorem State.storeByte_cpr (s : State) (p : Nat) (b : Byte) : (s.storeByte p b).cpr = s.cpr :=
  rfl
@[simp] theorem State.storeByte_mem (s : State) (p : Nat) (b : Byte) : (s.storeByte p b).mem = Memory.write s.mem p b :=
  rfl
@[simp] theorem State.storeByte_stored (s : State) (p : Nat) (b : Byte) : (s.storeByte p b).stored = insertAddr (wordAddr p) s.stored :=
  rfl
@[simp] theorem State.storeByte_loadPending (s : State) (p : Nat) (b : Byte) : (s.storeByte p b).loadPending = s.loadPending :=
  rfl
@[simp] theorem State.storeByte_mfHi (s : State) (p : Nat) (b : Byte) : (s.storeByte p b).mfHi = s.mfHi :=
  rfl
@[simp] theorem State.storeByte_mfLo (s : State) (p : Nat) (b : Byte) : (s.storeByte p b).mfLo = s.mfLo :=
  rfl
@[simp] theorem State.storeByte_mdFresh (s : State) (p : Nat) (b : Byte) : (s.storeByte p b).mdFresh = s.mdFresh :=
  rfl
@[simp] theorem State.storeByte_cpcPrev (s : State) (p : Nat) (b : Byte) : (s.storeByte p b).cpcPrev = s.cpcPrev :=
  rfl
@[simp] theorem State.storeByte_mtcShadow (s : State) (p : Nat) (b : Byte) : (s.storeByte p b).mtcShadow = s.mtcShadow :=
  rfl
@[simp] theorem State.storeByte_lastWasMem (s : State) (p : Nat) (b : Byte) : (s.storeByte p b).lastWasMem = s.lastWasMem :=
  rfl
@[simp] theorem State.storeByte_pins (s : State) (p : Nat) (b : Byte) : (s.storeByte p b).pins = s.pins :=
  rfl
@[simp] theorem State.storeByte_nextPins (s : State) (p : Nat) (b : Byte) : (s.storeByte p b).nextPins = s.nextPins :=
  rfl
@[simp] theorem State.storeByte_freeTick (s : State) (p : Nat) (b : Byte) : (s.storeByte p b).freeTick = s.freeTick :=
  rfl
@[simp] theorem State.storeBytes_cfg (s : State) (cs : List Host.Cell) : (s.storeBytes cs).cfg = s.cfg := by
  induction cs generalizing s with
  | nil => rfl
  | cons c cs ih => simp [State.storeBytes, ih]
@[simp] theorem State.storeBytes_gpr (s : State) (cs : List Host.Cell) : (s.storeBytes cs).gpr = s.gpr := by
  induction cs generalizing s with
  | nil => rfl
  | cons c cs ih => simp [State.storeBytes, ih]
@[simp] theorem State.storeBytes_pc (s : State) (cs : List Host.Cell) : (s.storeBytes cs).pc = s.pc := by
  induction cs generalizing s with
  | nil => rfl
  | cons c cs ih => simp [State.storeBytes, ih]
@[simp] theorem State.storeBytes_npc (s : State) (cs : List Host.Cell) : (s.storeBytes cs).npc = s.npc := by
  induction cs generalizing s with
  | nil => rfl
  | cons c cs ih => simp [State.storeBytes, ih]
@[simp] theorem State.storeBytes_inDelaySlot (s : State) (cs : List Host.Cell) : (s.storeBytes cs).inDelaySlot = s.inDelaySlot := by
  induction cs generalizing s with
  | nil => rfl
  | cons c cs ih => simp [State.storeBytes, ih]
@[simp] theorem State.storeBytes_hi (s : State) (cs : List Host.Cell) : (s.storeBytes cs).hi = s.hi := by
  induction cs generalizing s with
  | nil => rfl
  | cons c cs ih => simp [State.storeBytes, ih]
@[simp] theorem State.storeBytes_lo (s : State) (cs : List Host.Cell) : (s.storeBytes cs).lo = s.lo := by
  induction cs generalizing s with
  | nil => rfl
  | cons c cs ih => simp [State.storeBytes, ih]
@[simp] theorem State.storeBytes_sr (s : State) (cs : List Host.Cell) : (s.storeBytes cs).sr = s.sr := by
  induction cs generalizing s with
  | nil => rfl
  | cons c cs ih => simp [State.storeBytes, ih]
@[simp] theorem State.storeBytes_cause (s : State) (cs : List Host.Cell) : (s.storeBytes cs).cause = s.cause := by
  induction cs generalizing s with
  | nil => rfl
  | cons c cs ih => simp [State.storeBytes, ih]
@[simp] theorem State.storeBytes_epc (s : State) (cs : List Host.Cell) : (s.storeBytes cs).epc = s.epc := by
  induction cs generalizing s with
  | nil => rfl
  | cons c cs ih => simp [State.storeBytes, ih]
@[simp] theorem State.storeBytes_badVAddr (s : State) (cs : List Host.Cell) : (s.storeBytes cs).badVAddr = s.badVAddr := by
  induction cs generalizing s with
  | nil => rfl
  | cons c cs ih => simp [State.storeBytes, ih]
@[simp] theorem State.storeBytes_cpr (s : State) (cs : List Host.Cell) : (s.storeBytes cs).cpr = s.cpr := by
  induction cs generalizing s with
  | nil => rfl
  | cons c cs ih => simp [State.storeBytes, ih]
@[simp] theorem State.storeBytes_loadPending (s : State) (cs : List Host.Cell) : (s.storeBytes cs).loadPending = s.loadPending := by
  induction cs generalizing s with
  | nil => rfl
  | cons c cs ih => simp [State.storeBytes, ih]
@[simp] theorem State.storeBytes_mfHi (s : State) (cs : List Host.Cell) : (s.storeBytes cs).mfHi = s.mfHi := by
  induction cs generalizing s with
  | nil => rfl
  | cons c cs ih => simp [State.storeBytes, ih]
@[simp] theorem State.storeBytes_mfLo (s : State) (cs : List Host.Cell) : (s.storeBytes cs).mfLo = s.mfLo := by
  induction cs generalizing s with
  | nil => rfl
  | cons c cs ih => simp [State.storeBytes, ih]
@[simp] theorem State.storeBytes_mdFresh (s : State) (cs : List Host.Cell) : (s.storeBytes cs).mdFresh = s.mdFresh := by
  induction cs generalizing s with
  | nil => rfl
  | cons c cs ih => simp [State.storeBytes, ih]
@[simp] theorem State.storeBytes_cpcPrev (s : State) (cs : List Host.Cell) : (s.storeBytes cs).cpcPrev = s.cpcPrev := by
  induction cs generalizing s with
  | nil => rfl
  | cons c cs ih => simp [State.storeBytes, ih]
@[simp] theorem State.storeBytes_mtcShadow (s : State) (cs : List Host.Cell) : (s.storeBytes cs).mtcShadow = s.mtcShadow := by
  induction cs generalizing s with
  | nil => rfl
  | cons c cs ih => simp [State.storeBytes, ih]
@[simp] theorem State.storeBytes_lastWasMem (s : State) (cs : List Host.Cell) : (s.storeBytes cs).lastWasMem = s.lastWasMem := by
  induction cs generalizing s with
  | nil => rfl
  | cons c cs ih => simp [State.storeBytes, ih]
@[simp] theorem State.storeBytes_pins (s : State) (cs : List Host.Cell) : (s.storeBytes cs).pins = s.pins := by
  induction cs generalizing s with
  | nil => rfl
  | cons c cs ih => simp [State.storeBytes, ih]
@[simp] theorem State.storeBytes_nextPins (s : State) (cs : List Host.Cell) : (s.storeBytes cs).nextPins = s.nextPins := by
  induction cs generalizing s with
  | nil => rfl
  | cons c cs ih => simp [State.storeBytes, ih]
@[simp] theorem State.storeBytes_freeTick (s : State) (cs : List Host.Cell) : (s.storeBytes cs).freeTick = s.freeTick := by
  induction cs generalizing s with
  | nil => rfl
  | cons c cs ih => simp [State.storeBytes, ih]

/-! ### the end of a step, and reset -/

@[simp] theorem State.nextSample_cfg (s : State) : (s.nextSample).cfg = s.cfg :=
  by unfold State.nextSample; split <;> rfl
@[simp] theorem State.nextSample_gpr (s : State) : (s.nextSample).gpr = s.gpr :=
  by unfold State.nextSample; split <;> rfl
@[simp] theorem State.nextSample_pc (s : State) : (s.nextSample).pc = s.pc :=
  by unfold State.nextSample; split <;> rfl
@[simp] theorem State.nextSample_npc (s : State) : (s.nextSample).npc = s.npc :=
  by unfold State.nextSample; split <;> rfl
@[simp] theorem State.nextSample_inDelaySlot (s : State) : (s.nextSample).inDelaySlot = s.inDelaySlot :=
  by unfold State.nextSample; split <;> rfl
@[simp] theorem State.nextSample_hi (s : State) : (s.nextSample).hi = s.hi :=
  by unfold State.nextSample; split <;> rfl
@[simp] theorem State.nextSample_lo (s : State) : (s.nextSample).lo = s.lo :=
  by unfold State.nextSample; split <;> rfl
@[simp] theorem State.nextSample_sr (s : State) : (s.nextSample).sr = s.sr :=
  by unfold State.nextSample; split <;> rfl
@[simp] theorem State.nextSample_cause (s : State) : (s.nextSample).cause = s.cause :=
  by unfold State.nextSample; split <;> rfl
@[simp] theorem State.nextSample_epc (s : State) : (s.nextSample).epc = s.epc :=
  by unfold State.nextSample; split <;> rfl
@[simp] theorem State.nextSample_badVAddr (s : State) : (s.nextSample).badVAddr = s.badVAddr :=
  by unfold State.nextSample; split <;> rfl
@[simp] theorem State.nextSample_cpr (s : State) : (s.nextSample).cpr = s.cpr :=
  by unfold State.nextSample; split <;> rfl
@[simp] theorem State.nextSample_mem (s : State) : (s.nextSample).mem = s.mem :=
  by unfold State.nextSample; split <;> rfl
@[simp] theorem State.nextSample_stored (s : State) : (s.nextSample).stored = s.stored :=
  by unfold State.nextSample; split <;> rfl
@[simp] theorem State.nextSample_loadPending (s : State) : (s.nextSample).loadPending = s.loadPending :=
  by unfold State.nextSample; split <;> rfl
@[simp] theorem State.nextSample_mfHi (s : State) : (s.nextSample).mfHi = s.mfHi :=
  by unfold State.nextSample; split <;> rfl
@[simp] theorem State.nextSample_mfLo (s : State) : (s.nextSample).mfLo = s.mfLo :=
  by unfold State.nextSample; split <;> rfl
@[simp] theorem State.nextSample_mdFresh (s : State) : (s.nextSample).mdFresh = s.mdFresh :=
  by unfold State.nextSample; split <;> rfl
@[simp] theorem State.nextSample_cpcPrev (s : State) : (s.nextSample).cpcPrev = s.cpcPrev :=
  by unfold State.nextSample; split <;> rfl
@[simp] theorem State.nextSample_mtcShadow (s : State) : (s.nextSample).mtcShadow = s.mtcShadow :=
  by unfold State.nextSample; split <;> rfl
@[simp] theorem State.nextSample_lastWasMem (s : State) : (s.nextSample).lastWasMem = s.lastWasMem :=
  by unfold State.nextSample; split <;> rfl
@[simp] theorem State.nextSample_freeTick (s : State) : (s.nextSample).freeTick = s.freeTick + 1 :=
  by unfold State.nextSample; split <;> rfl
@[simp] theorem State.endStep_cfg (s : State) : (s.endStep).cfg = s.cfg := by simp [State.endStep]
@[simp] theorem State.endStep_gpr (s : State) : (s.endStep).gpr = s.gpr := by simp [State.endStep]
@[simp] theorem State.endStep_pc (s : State) : (s.endStep).pc = s.pc := by simp [State.endStep]
@[simp] theorem State.endStep_npc (s : State) : (s.endStep).npc = s.npc := by simp [State.endStep]
@[simp] theorem State.endStep_inDelaySlot (s : State) : (s.endStep).inDelaySlot = s.inDelaySlot :=
  by simp [State.endStep]
@[simp] theorem State.endStep_hi (s : State) : (s.endStep).hi = s.hi := by simp [State.endStep]
@[simp] theorem State.endStep_lo (s : State) : (s.endStep).lo = s.lo := by simp [State.endStep]
@[simp] theorem State.endStep_sr (s : State) : (s.endStep).sr = s.sr := by simp [State.endStep]
@[simp] theorem State.endStep_cause (s : State) : (s.endStep).cause = s.cause := by simp [State.endStep]
@[simp] theorem State.endStep_epc (s : State) : (s.endStep).epc = s.epc := by simp [State.endStep]
@[simp] theorem State.endStep_badVAddr (s : State) : (s.endStep).badVAddr = s.badVAddr :=
  by simp [State.endStep]
@[simp] theorem State.endStep_cpr (s : State) : (s.endStep).cpr = s.cpr := by simp [State.endStep]
@[simp] theorem State.endStep_mem (s : State) : (s.endStep).mem = s.mem := by simp [State.endStep]
@[simp] theorem State.endStep_stored (s : State) : (s.endStep).stored = s.stored :=
  by simp [State.endStep]
@[simp] theorem State.endStep_loadPending (s : State) : (s.endStep).loadPending = s.loadPending :=
  by simp [State.endStep]
@[simp] theorem State.endStep_mfHi (s : State) : (s.endStep).mfHi = s.mfHi := by simp [State.endStep]
@[simp] theorem State.endStep_mfLo (s : State) : (s.endStep).mfLo = s.mfLo := by simp [State.endStep]
@[simp] theorem State.endStep_mdFresh (s : State) : (s.endStep).mdFresh = s.mdFresh :=
  by simp [State.endStep]
@[simp] theorem State.endStep_cpcPrev (s : State) : (s.endStep).cpcPrev = s.pins.cpc :=
  by simp [State.endStep]
@[simp] theorem State.endStep_mtcShadow (s : State) : (s.endStep).mtcShadow = s.mtcShadow :=
  by simp [State.endStep]
@[simp] theorem State.endStep_lastWasMem (s : State) : (s.endStep).lastWasMem = s.lastWasMem :=
  by simp [State.endStep]
@[simp] theorem State.endStep_freeTick (s : State) : (s.endStep).freeTick = s.freeTick + 1 :=
  by simp [State.endStep]
@[simp] theorem State.applyReset_cfg (s : State) : (s.applyReset).cfg = s.cfg :=
  by simp only [State.applyReset]
@[simp] theorem State.applyReset_pc (s : State) : (s.applyReset).pc = s.cfg.resetPc :=
  by simp only [State.applyReset]
@[simp] theorem State.applyReset_npc (s : State) : (s.applyReset).npc = s.cfg.resetPc + 4#32 :=
  by simp only [State.applyReset]
@[simp] theorem State.applyReset_inDelaySlot (s : State) : (s.applyReset).inDelaySlot = false :=
  by simp only [State.applyReset]
@[simp] theorem State.applyReset_hi (s : State) : (s.applyReset).hi = s.free (slotReset + 32) :=
  by simp only [State.applyReset]
@[simp] theorem State.applyReset_lo (s : State) : (s.applyReset).lo = s.free (slotReset + 33) :=
  by simp only [State.applyReset]
@[simp] theorem State.applyReset_sr (s : State) : (s.applyReset).sr = resetStatus (s.free (slotReset + 34)) :=
  by simp only [State.applyReset]
@[simp] theorem State.applyReset_cause (s : State) : (s.applyReset).cause = s.free (slotReset + 35) &&& causeStored :=
  by simp only [State.applyReset]
@[simp] theorem State.applyReset_epc (s : State) : (s.applyReset).epc = s.free (slotReset + 36) :=
  by simp only [State.applyReset]
@[simp] theorem State.applyReset_badVAddr (s : State) : (s.applyReset).badVAddr = s.free (slotReset + 37) :=
  by simp only [State.applyReset]
@[simp] theorem State.applyReset_mem (s : State) : (s.applyReset).mem = s.mem :=
  by simp only [State.applyReset]
@[simp] theorem State.applyReset_stored (s : State) : (s.applyReset).stored = [] :=
  by simp only [State.applyReset]
@[simp] theorem State.applyReset_loadPending (s : State) : (s.applyReset).loadPending = none :=
  by simp only [State.applyReset]
@[simp] theorem State.applyReset_mfHi (s : State) : (s.applyReset).mfHi = none :=
  by simp only [State.applyReset]
@[simp] theorem State.applyReset_mfLo (s : State) : (s.applyReset).mfLo = none :=
  by simp only [State.applyReset]
@[simp] theorem State.applyReset_mdFresh (s : State) : (s.applyReset).mdFresh = false :=
  by simp only [State.applyReset]
@[simp] theorem State.applyReset_cpcPrev (s : State) : (s.applyReset).cpcPrev = (s.free (slotReset + 166)).extractLsb' 0 4 :=
  by simp only [State.applyReset]
@[simp] theorem State.applyReset_mtcShadow (s : State) : (s.applyReset).mtcShadow = none :=
  by simp only [State.applyReset]
@[simp] theorem State.applyReset_lastWasMem (s : State) : (s.applyReset).lastWasMem = false :=
  by simp only [State.applyReset]
@[simp] theorem State.applyReset_pins (s : State) : (s.applyReset).pins = s.pins :=
  by simp only [State.applyReset]
@[simp] theorem State.applyReset_nextPins (s : State) : (s.applyReset).nextPins = s.nextPins :=
  by simp only [State.applyReset]
@[simp] theorem State.applyReset_freeTick (s : State) : (s.applyReset).freeTick = s.freeTick :=
  by simp only [State.applyReset]

/-! ### the visibility of MTC0 -/

@[simp] theorem State.withVisibility_gpr (s : State) (v : MtcVisibility) : (s.withVisibility v).gpr = s.gpr :=
  rfl
@[simp] theorem State.withVisibility_pc (s : State) (v : MtcVisibility) : (s.withVisibility v).pc = s.pc :=
  rfl
@[simp] theorem State.withVisibility_npc (s : State) (v : MtcVisibility) : (s.withVisibility v).npc = s.npc :=
  rfl
@[simp] theorem State.withVisibility_inDelaySlot (s : State) (v : MtcVisibility) : (s.withVisibility v).inDelaySlot = s.inDelaySlot :=
  rfl
@[simp] theorem State.withVisibility_hi (s : State) (v : MtcVisibility) : (s.withVisibility v).hi = s.hi :=
  rfl
@[simp] theorem State.withVisibility_lo (s : State) (v : MtcVisibility) : (s.withVisibility v).lo = s.lo :=
  rfl
@[simp] theorem State.withVisibility_sr (s : State) (v : MtcVisibility) : (s.withVisibility v).sr = s.sr :=
  rfl
@[simp] theorem State.withVisibility_cause (s : State) (v : MtcVisibility) : (s.withVisibility v).cause = s.cause :=
  rfl
@[simp] theorem State.withVisibility_epc (s : State) (v : MtcVisibility) : (s.withVisibility v).epc = s.epc :=
  rfl
@[simp] theorem State.withVisibility_badVAddr (s : State) (v : MtcVisibility) : (s.withVisibility v).badVAddr = s.badVAddr :=
  rfl
@[simp] theorem State.withVisibility_cpr (s : State) (v : MtcVisibility) : (s.withVisibility v).cpr = s.cpr :=
  rfl
@[simp] theorem State.withVisibility_mem (s : State) (v : MtcVisibility) : (s.withVisibility v).mem = s.mem :=
  rfl
@[simp] theorem State.withVisibility_stored (s : State) (v : MtcVisibility) : (s.withVisibility v).stored = s.stored :=
  rfl
@[simp] theorem State.withVisibility_loadPending (s : State) (v : MtcVisibility) : (s.withVisibility v).loadPending = s.loadPending :=
  rfl
@[simp] theorem State.withVisibility_mfHi (s : State) (v : MtcVisibility) : (s.withVisibility v).mfHi = s.mfHi :=
  rfl
@[simp] theorem State.withVisibility_mfLo (s : State) (v : MtcVisibility) : (s.withVisibility v).mfLo = s.mfLo :=
  rfl
@[simp] theorem State.withVisibility_mdFresh (s : State) (v : MtcVisibility) : (s.withVisibility v).mdFresh = s.mdFresh :=
  rfl
@[simp] theorem State.withVisibility_cpcPrev (s : State) (v : MtcVisibility) : (s.withVisibility v).cpcPrev = s.cpcPrev :=
  rfl
@[simp] theorem State.withVisibility_mtcShadow (s : State) (v : MtcVisibility) : (s.withVisibility v).mtcShadow = s.mtcShadow :=
  rfl
@[simp] theorem State.withVisibility_lastWasMem (s : State) (v : MtcVisibility) : (s.withVisibility v).lastWasMem = s.lastWasMem :=
  rfl
@[simp] theorem State.withVisibility_pins (s : State) (v : MtcVisibility) : (s.withVisibility v).pins = s.pins :=
  rfl
@[simp] theorem State.withVisibility_nextPins (s : State) (v : MtcVisibility) : (s.withVisibility v).nextPins = s.nextPins :=
  rfl
@[simp] theorem State.withVisibility_freeTick (s : State) (v : MtcVisibility) : (s.withVisibility v).freeTick = s.freeTick :=
  rfl

/-! ### placing an instruction -/

@[simp] theorem State.placeAtPc_cfg (s : State) (w : Word) : (s.placeAtPc w).cfg = s.cfg := rfl
@[simp] theorem State.placeAtPc_gpr (s : State) (w : Word) : (s.placeAtPc w).gpr = s.gpr := rfl
@[simp] theorem State.placeAtPc_pc (s : State) (w : Word) : (s.placeAtPc w).pc = s.pc := rfl
@[simp] theorem State.placeAtPc_npc (s : State) (w : Word) : (s.placeAtPc w).npc = s.npc := rfl
@[simp] theorem State.placeAtPc_inDelaySlot (s : State) (w : Word) : (s.placeAtPc w).inDelaySlot = s.inDelaySlot :=
  rfl
@[simp] theorem State.placeAtPc_hi (s : State) (w : Word) : (s.placeAtPc w).hi = s.hi := rfl
@[simp] theorem State.placeAtPc_lo (s : State) (w : Word) : (s.placeAtPc w).lo = s.lo := rfl
@[simp] theorem State.placeAtPc_sr (s : State) (w : Word) : (s.placeAtPc w).sr = s.sr := rfl
@[simp] theorem State.placeAtPc_cause (s : State) (w : Word) : (s.placeAtPc w).cause = s.cause := rfl
@[simp] theorem State.placeAtPc_epc (s : State) (w : Word) : (s.placeAtPc w).epc = s.epc := rfl
@[simp] theorem State.placeAtPc_badVAddr (s : State) (w : Word) : (s.placeAtPc w).badVAddr = s.badVAddr :=
  rfl
@[simp] theorem State.placeAtPc_cpr (s : State) (w : Word) : (s.placeAtPc w).cpr = s.cpr := rfl
@[simp] theorem State.placeAtPc_loadPending (s : State) (w : Word) : (s.placeAtPc w).loadPending = s.loadPending :=
  rfl
@[simp] theorem State.placeAtPc_mfHi (s : State) (w : Word) : (s.placeAtPc w).mfHi = s.mfHi := rfl
@[simp] theorem State.placeAtPc_mfLo (s : State) (w : Word) : (s.placeAtPc w).mfLo = s.mfLo := rfl
@[simp] theorem State.placeAtPc_mdFresh (s : State) (w : Word) : (s.placeAtPc w).mdFresh = s.mdFresh :=
  rfl
@[simp] theorem State.placeAtPc_cpcPrev (s : State) (w : Word) : (s.placeAtPc w).cpcPrev = s.cpcPrev :=
  rfl
@[simp] theorem State.placeAtPc_mtcShadow (s : State) (w : Word) : (s.placeAtPc w).mtcShadow = s.mtcShadow :=
  rfl
@[simp] theorem State.placeAtPc_lastWasMem (s : State) (w : Word) : (s.placeAtPc w).lastWasMem = s.lastWasMem :=
  rfl
@[simp] theorem State.placeAtPc_pins (s : State) (w : Word) : (s.placeAtPc w).pins = s.pins := rfl
@[simp] theorem State.placeAtPc_nextPins (s : State) (w : Word) : (s.placeAtPc w).nextPins = s.nextPins :=
  rfl
@[simp] theorem State.placeAtPc_freeTick (s : State) (w : Word) : (s.placeAtPc w).freeTick = s.freeTick :=
  rfl

end Sys2Proof.Machine
end

