-- ==== Sys2Proof/Laws/Registers.lean ====
section
/-! SUPPORT. The general registers, the load delay, and what each way of completing an instruction does. -/

namespace Sys2Proof.Machine

/-! ### Reading after writing -/

@[simp] theorem State.gprRead_zero (s : State) : s.gprRead 0#5 = 0#32 := by simp [State.gprRead]

@[simp] theorem State.setReg_zero (s : State) (v : Word) : s.setReg 0#5 v = s := by simp [State.setReg]

theorem State.gprRead_congr {s t : State} (h : t.gpr = s.gpr) (q : Reg) : t.gprRead q = s.gprRead q := by
  simp only [State.gprRead, h]

theorem State.gprRead_setReg (s : State) (r : Reg) (v : Word) (q : Reg) :
    (s.setReg r v).gprRead q = if q = 0#5 then 0#32 else if q = r then v else s.gprRead q := by
  unfold State.setReg State.gprRead
  by_cases hq : q = 0#5
  · simp [hq]
  · by_cases hr : r = 0#5
    · subst hr; simp [hq]
    · have : r.toNat = q.toNat ↔ q = r := ⟨fun h => (BitVec.eq_of_toNat_eq h).symm, fun h => h ▸ rfl⟩
      simp only [hq, hr, if_false, Vector.getElem_set, this]

/-! ### The pending load -/

@[simp] theorem State.mergeOperand_zero (s : State) : s.mergeOperand 0#5 = 0#32 := by
  simp [State.mergeOperand]

theorem State.mergeOperand_none {s : State} (h : s.loadPending = none) (q : Reg) :
    s.mergeOperand q = s.gprRead q := by
  unfold State.mergeOperand; by_cases hq : q = 0#5 <;> simp [hq, h]

theorem State.gprRead_land (s : State) (q : Reg) : s.land.gprRead q = s.settled q := by
  unfold State.land State.settled State.mergeOperand
  split
  · rename_i r v h
    refine (State.gprRead_congr (s := s.setReg r v) rfl q).trans ?_
    rw [State.gprRead_setReg]
    by_cases hq : q = 0#5 <;> simp [hq, eq_comm]
  · rename_i h
    by_cases hq : q = 0#5 <;> simp [hq]

theorem State.gprRead_landEarly (s : State) (q : Reg) : s.landEarly.gprRead q = s.settled q := by
  unfold State.landEarly State.settled State.mergeOperand
  split
  · rw [State.gprRead_setReg]
    by_cases hq : q = 0#5 <;> simp [hq, eq_comm]
  · by_cases hq : q = 0#5 <;> simp [hq]

theorem State.gprRead_dropPending_land (s : State) (r q : Reg) :
    (s.dropPending r).land.gprRead q = if q = r then s.gprRead q else s.settled q := by
  have hg : (s.dropPending r).gprRead q = s.gprRead q := State.gprRead_congr (by simp) q
  rw [State.gprRead_land]
  by_cases hq : q = 0#5
  · subst hq; simp [State.settled]
  unfold State.settled State.mergeOperand
  rw [hg]
  unfold State.dropPending State.isPending
  rcases h : s.loadPending with _ | ⟨p, v⟩
  · simp [hq, h]
  · by_cases hp : p = r
    · subst hp
      by_cases hpq : q = p
      · subst hpq; simp [hq]
      · simp [hq, hpq, Ne.symm hpq]
    · by_cases hqr : q = r
      · subst hqr; simp [hq, h, hp]
      · simp [hq, h, hp, hqr]

@[simp] theorem State.settled_zero (s : State) : s.settled 0#5 = 0#32 := State.mergeOperand_zero s

/-! ### The views that the step reads -/

@[simp] theorem State.land_srView (s : State) : s.land.srView = s.srView := by simp [State.srView]
@[simp] theorem State.landEarly_srView (s : State) : s.landEarly.srView = s.srView := by simp [State.srView]
@[simp] theorem State.land_excVectorNow (s : State) : s.land.excVectorNow = s.excVectorNow := by
  simp [State.excVectorNow]
@[simp] theorem State.landEarly_excVectorNow (s : State) : s.landEarly.excVectorNow = s.excVectorNow := by
  simp [State.excVectorNow]

theorem State.srView_of_noShadow {s : State} (h : s.mtcShadow = none) : s.srView = s.sr := by
  unfold State.srView; rw [h]; cases s.cfg.mtcVisibility <;> rfl

theorem State.causeView_of_noShadow {s : State} (h : s.mtcShadow = none) : s.causeView = s.cause := by
  unfold State.causeView; rw [h]; cases s.cfg.mtcVisibility <;> rfl

/-! ### The ways to complete -/

@[simp] theorem State.gprRead_retire (s : State) (n : Word) (b m : Bool) (q : Reg) :
    (s.retire n b m).gprRead q = s.settled q :=
  (State.gprRead_congr (by simp) q).trans (s.gprRead_land q)

@[simp] theorem State.gprRead_retireSeq (s : State) (q : Reg) : s.retireSeq.gprRead q = s.settled q :=
  s.gprRead_retire _ _ _ q

@[simp] theorem State.gprRead_retireMem (s : State) (q : Reg) : s.retireMem.gprRead q = s.settled q :=
  s.gprRead_retire _ _ _ q

@[simp] theorem State.gprRead_retireBranch (s : State) (c : Bool) (a : Word) (q : Reg) :
    (s.retireBranch c a).gprRead q = s.settled q :=
  s.gprRead_retire _ _ _ q

/-- `retireReg` does what a computational instruction may do (R140). -/
theorem State.retireReg_computesInto (s : State) (rd : Reg) (v : Word) :
    ComputesInto s (s.retireReg rd v) rd v where
  result q := by simp [State.retireReg, State.gprRead_setReg]
  noPending := by simp
  goes := ⟨by simp, by simp, by simp⟩
  memory := ⟨fun a => by simp, by simp⟩
  hilo := ⟨by simp, by simp, by simp⟩
  status := ⟨by simp, by simp⟩
  cop := ⟨by simp, by simp, by simp⟩
  inputs := ⟨by simp, by simp, by simp, by simp, by simp⟩
  aged := ⟨by simp, by simp⟩
  shadow := by simp
  notMem := by simp

/-- `retireBranch` does what a jump or branch may do (R191, R192). -/
theorem State.retireBranch_transfersTo (s : State) (c : Bool) (a : Word) :
    TransfersTo s (s.retireBranch c a) (if c then a else s.npc + 4#32) none where
  result q := by
    by_cases hq : q = 0#5
    · subst hq; simp
    · simp [hq]
  noPending := by simp
  goes := ⟨by simp, by simp, by simp⟩
  memory := ⟨fun a => by simp, by simp⟩
  hilo := ⟨by simp, by simp, by simp⟩
  status := ⟨by simp, by simp⟩
  cop := ⟨by simp, by simp, by simp⟩
  inputs := ⟨by simp, by simp, by simp, by simp, by simp⟩
  aged := ⟨by simp, by simp⟩
  shadow := by simp
  notMem := by simp

/-- The same with a link (R193). -/
theorem State.retireBranch_link_transfersTo (s : State) (c : Bool) (a : Word) (r : Reg) (v : Word) :
    TransfersTo s ((s.retireBranch c a).setReg r v) (if c then a else s.npc + 4#32) (some (r, v)) where
  result q := by rw [State.gprRead_setReg]; simp
  noPending := by simp
  goes := ⟨by simp, by simp, by simp⟩
  memory := ⟨fun a => by simp, by simp⟩
  hilo := ⟨by simp, by simp, by simp⟩
  status := ⟨by simp, by simp⟩
  cop := ⟨by simp, by simp, by simp⟩
  inputs := ⟨by simp, by simp, by simp, by simp, by simp⟩
  aged := ⟨by simp, by simp⟩
  shadow := by simp
  notMem := by simp

/-- `retireLoad` does what a load may do (R124). -/
theorem State.retireLoad_deliversTo (s : State) (rt : Reg) (v : Word) :
    DeliversTo s (s.retireLoad rt v) rt v true where
  pending := by simp
  others q := (State.gprRead_congr (by simp) q).trans (s.gprRead_dropPending_land rt q)
  goes := ⟨by simp, by simp, by simp⟩
  memory := ⟨fun a => by simp, by simp⟩
  hilo := ⟨by simp, by simp, by simp⟩
  status := ⟨by simp, by simp⟩
  cop := ⟨by simp, by simp, by simp⟩
  inputs := ⟨by simp, by simp, by simp, by simp, by simp⟩
  aged := ⟨by simp, by simp⟩
  shadow := by simp
  lastWasMem := by simp

/-- `retireMove` does what a move from a coprocessor may do (R227, R342). -/
theorem State.retireMove_deliversTo (s : State) (rt : Reg) (v : Word) :
    DeliversTo s (s.retireMove rt v) rt v false where
  pending := by simp
  others q := (State.gprRead_congr (by simp) q).trans (s.gprRead_dropPending_land rt q)
  goes := ⟨by simp, by simp, by simp⟩
  memory := ⟨fun a => by simp, by simp⟩
  hilo := ⟨by simp, by simp, by simp⟩
  status := ⟨by simp, by simp⟩
  cop := ⟨by simp, by simp, by simp⟩
  inputs := ⟨by simp, by simp, by simp, by simp, by simp⟩
  aged := ⟨by simp, by simp⟩
  shadow := by simp
  lastWasMem := by simp

/-- What a register reads as (R21, R32, R341). -/
theorem State.regRead_cases (s : State) (k : Nat) (q : Reg) :
    s.regRead k q = if q = 0#5 then 0#32 else if s.isPending q = true then s.free k else s.gprRead q := by
  simp [State.regRead]

theorem State.isPending_iff (s : State) (q : Reg) :
    s.isPending q = true ↔ ∃ v, s.loadPending = some (q, v) := by
  unfold State.isPending; rcases s.loadPending with _ | ⟨p, v⟩ <;> simp

end Sys2Proof.Machine
end

