-- ==== Sys2Proof/Laws/Exceptions.lean ====
section
/-! SUPPORT. Exception entry, the return from one, and the checks of a data access. -/

namespace Sys2Proof.Machine

/-! ### Bit fields of the status and cause registers -/

theorem causeAfter_bd (c : Word) (b : Bool) (k : BitVec 5) (e : Exc) : (causeAfter c b k e).getLsbD 31 = b := by
  unfold causeAfter; cases b <;> cases e <;> grind

theorem causeAfter_excCode (c : Word) (b : Bool) (k : BitVec 5) (e : Exc) :
    (causeAfter c b k e).extractLsb' 2 5 = k := by
  unfold causeAfter; ext i hi; simp only [BitVec.getElem_extractLsb']; grind

theorem causeAfter_unit (c : Word) (b : Bool) (k : BitVec 5) (e : Exc) :
    (causeAfter c b k e).extractLsb' 28 2 = unitOr (c.extractLsb' 28 2) e := by
  unfold causeAfter; ext i hi; simp only [BitVec.getElem_extractLsb']; cases e <;> simp only [unitOr] <;> grind

/-- Every bit of Cause that entry does not write is as before (R290). -/
theorem causeAfter_other (c : Word) (b : Bool) (k : BitVec 5) (e : Exc) {i : Nat}
    (h : i < 2 ∨ (7 ≤ i ∧ i < 28) ∨ i = 30) : (causeAfter c b k e).getLsbD i = c.getLsbD i := by
  unfold causeAfter; cases e <;> grind

theorem causeAfter_ip (c : Word) (b : Bool) (k : BitVec 5) (e : Exc) :
    (causeAfter c b k e).extractLsb' 8 2 = c.extractLsb' 8 2 := by
  ext i hi
  simp only [BitVec.getElem_extractLsb']
  exact causeAfter_other c b k e (by omega)

theorem pushStatus_stack (sr view : Word) : (pushStatus sr view).extractLsb' 0 6 = view.extractLsb' 0 4 ++ 0#2 := by
  unfold pushStatus; ext i hi; simp only [BitVec.getElem_extractLsb']; grind

theorem pushStatus_rest (sr view : Word) : (pushStatus sr view).extractLsb' 6 26 = sr.extractLsb' 6 26 := by
  unfold pushStatus; ext i hi; simp only [BitVec.getElem_extractLsb']; grind

theorem popStatus_stack (sr view : Word) : (popStatus sr view).extractLsb' 0 4 = view.extractLsb' 2 4 := by
  unfold popStatus; ext i hi; simp only [BitVec.getElem_extractLsb']; grind

theorem popStatus_rest (sr view : Word) : (popStatus sr view).extractLsb' 4 28 = sr.extractLsb' 4 28 := by
  unfold popStatus; ext i hi; simp only [BitVec.getElem_extractLsb']; grind

/-! ### Entry -/

theorem badVAddrAfter_eq (old : Word) (e : Exc) :
    badVAddrAfter old e = addressOr old e := by
  cases e <;> rfl

/-- `TakeException` writes what R290 says. -/
theorem takeException_entryWrites (e : Exc) (s : State) : EntryWrites e s (takeException e s) where
  epc := rfl
  bd := causeAfter_bd ..
  excCode := causeAfter_excCode ..
  unit := causeAfter_unit ..
  ip := causeAfter_ip ..
  badVAddr := badVAddrAfter_eq ..
  statusStack := pushStatus_stack ..
  statusRest := pushStatus_rest ..
  pc := rfl
  npc := rfl
  inDelaySlot := rfl
  shadow := rfl

/-- What entry writes depends only on the status, the sequencing and the parameters. -/
theorem EntryWrites.of_same {e : Exc} {s s' t : State} (h : EntryWrites e s' t)
    (hpc : s'.pc = s.pc) (hslot : s'.inDelaySlot = s.inDelaySlot) (hcfg : s'.cfg = s.cfg) (hsr : s'.sr = s.sr)
    (hview : s'.srView = s.srView) (hcause : s'.cause = s.cause) (hbad : s'.badVAddr = s.badVAddr) :
    EntryWrites e s t where
  epc := by rw [h.epc, hpc, hslot]
  bd := by rw [h.bd, hslot]
  excCode := by rw [h.excCode, hcfg]
  unit := by rw [h.unit, hcause]
  ip := by rw [h.ip, hcause]
  badVAddr := by rw [h.badVAddr, hbad]
  statusStack := by rw [h.statusStack, hview]
  statusRest := by rw [h.statusRest, hsr]
  pc := by rw [h.pc, hview, hcfg]
  npc := h.npc
  inDelaySlot := h.inDelaySlot
  shadow := h.shadow

/-- An instruction that raises e enters it (R35 step 6, R290). -/
theorem takeException_land_enters (e : Exc) (s : State) : Enters e s (takeException e s.land) where
  entry := (takeException_entryWrites e s.land).of_same (by simp) (by simp) (by simp) (by simp) (by simp) (by simp)
    (by simp)
  registers q := (State.gprRead_congr (by simp) q).trans (s.gprRead_land q)
  noPending := by simp
  memory := ⟨fun a => by simp, by simp⟩
  hilo := ⟨by simp, by simp, by simp⟩
  inputs := ⟨by simp, by simp, by simp, by simp, by simp⟩
  cpr := by simp
  mfHi := by simp
  mfLo := by simp
  lastWasMem := by simp

theorem raise_enters (e : Exc) (s : State) : ∃ t, raise e s = .next t ∧ Enters e s t :=
  ⟨_, rfl, takeException_land_enters e s⟩

/-- An event before the instruction: the entry, the pending load landed and still in its delay (R32). -/
theorem preempt_entryWrites (e : Exc) (s : State) : EntryWrites e s (preempt e s) :=
  (takeException_entryWrites e s.landEarly).of_same (by simp) (by simp) (by simp) (by simp) (by simp) (by simp)
    (by simp)

/-! ### The checks of a data access (R110) -/

theorem State.probe_ok_iff (s : State) (k : AccessKind) (m : Bool) (addr : Word) (bytes : List Nat) :
    s.probe k m addr bytes = .ok ↔ s.Admits k m addr bytes := by
  unfold State.probe
  constructor
  · intro h
    split at h
    · cases h
    · rename_i h1
      split at h
      · cases h
      · rename_i h2
        split at h
        · rename_i h3
          simp only [Bool.or_eq_true, Bool.and_eq_true, decide_eq_true_eq, not_or] at h1
          exact ⟨by simpa using h1.1, h1.2, by simpa using h2, by simpa [List.all_eq_true] using h3⟩
        · cases h
  · rintro ⟨h1, h2, h3, h4⟩
    have h2' : ¬ (s.user = true ∧ s.cfg.userLimit.toNat ≤ addr.toNat) := h2
    have h4' : bytes.all (isMapped s.cfg k) = true := List.all_eq_true.mpr h4
    simp [h1, h2', h3, h4']

theorem State.probe_addressError {s : State} {k : AccessKind} {m : Bool} {addr : Word} {bytes : List Nat}
    (h : m = true ∨ s.beyondLimit addr) : s.probe k m addr bytes = .raise (addressError k addr) := by
  unfold State.probe State.beyondLimit at *
  rw [if_pos (by simpa using h)]
  cases k <;> rfl

theorem State.probe_busError {s : State} {k : AccessKind} {addr : Word} {bytes : List Nat}
    (h2 : ¬ s.beyondLimit addr) (h3 : isBusError s.cfg k (biu s.cfg addr) = true) :
    s.probe k false addr bytes = .raise .dbe := by
  unfold State.probe State.beyondLimit at *
  rw [if_neg (by simpa using h2), if_pos h3]

theorem State.probe_fault {s : State} {k : AccessKind} {addr : Word} {bytes : List Nat}
    (h2 : ¬ s.beyondLimit addr) (h3 : isBusError s.cfg k (biu s.cfg addr) = false)
    (h4 : ∃ p ∈ bytes, isMapped s.cfg k p = false) :
    s.probe k false addr bytes = .fault (.unmapped k (biu s.cfg addr)) := by
  obtain ⟨p, hp, hm⟩ := h4
  have h4' : ¬ bytes.all (isMapped s.cfg k) = true := fun h => by
    rw [List.all_eq_true] at h; exact absurd (h p hp) (by simp [hm])
  unfold State.probe State.beyondLimit at *
  rw [if_neg (by simpa using h2), if_neg (by simp [h3]), if_neg h4']

/-- Everything a probe can answer. -/
theorem State.probe_cases (s : State) (k : AccessKind) (m : Bool) (addr : Word) (bytes : List Nat) :
    s.probe k m addr bytes = .ok ∨ s.probe k m addr bytes = .raise (addressError k addr) ∨
      s.probe k m addr bytes = .raise .dbe ∨ s.probe k m addr bytes = .fault (.unmapped k (biu s.cfg addr)) := by
  unfold State.probe addressError
  split
  · exact .inr (.inl rfl)
  · split
    · exact .inr (.inr (.inl rfl))
    · split
      · exact .inl rfl
      · exact .inr (.inr (.inr rfl))

theorem loadAccess_admitted {s : State} {m : Bool} {addr : Word} {bytes : List Nat} (rt : Reg) (v : Word)
    (h : s.Admits .load m addr bytes) : loadAccess m addr bytes rt v s = .next (s.retireLoad rt v) := by
  unfold loadAccess; rw [(s.probe_ok_iff ..).mpr h]

/-- Everything a load can do (R110, R124). -/
theorem loadAccess_cases {s t : State} {m : Bool} {addr : Word} {bytes : List Nat} {rt : Reg} {v : Word}
    (h : loadAccess m addr bytes rt v s = .next t) :
    (s.Admits .load m addr bytes ∧ t = s.retireLoad rt v) ∨ t = takeException (.adel addr) s.land ∨
      t = takeException .dbe s.land := by
  unfold loadAccess at h
  rcases s.probe_cases .load m addr bytes with hp | hp | hp | hp <;> rw [hp] at h
  · exact .inl ⟨(s.probe_ok_iff ..).mp hp, by simpa using h.symm⟩
  · exact .inr (.inl (by simpa [raise, addressError] using h.symm))
  · exact .inr (.inr (by simpa [raise] using h.symm))
  · cases h

theorem storeAccess_admitted {s : State} {m : Bool} {addr : Word} {cells : List Host.Cell}
    (h : s.Admits .store m addr (cells.map Prod.fst)) :
    storeAccess m addr cells s = .next (s.storeBytes cells).retireMem := by
  unfold storeAccess; rw [(s.probe_ok_iff ..).mpr h]

/-- Everything a store can do (R110, R125): one that raises an exception stores nothing. -/
theorem storeAccess_cases {s t : State} {m : Bool} {addr : Word} {cells : List Host.Cell}
    (h : storeAccess m addr cells s = .next t) :
    (s.Admits .store m addr (cells.map Prod.fst) ∧ t = (s.storeBytes cells).retireMem) ∨
      t = takeException (.ades addr) s.land ∨ t = takeException .dbe s.land := by
  unfold storeAccess at h
  rcases s.probe_cases .store m addr (cells.map Prod.fst) with hp | hp | hp | hp <;> rw [hp] at h
  · exact .inl ⟨(s.probe_ok_iff ..).mp hp, by simpa using h.symm⟩
  · exact .inr (.inl (by simpa [raise, addressError] using h.symm))
  · exact .inr (.inr (by simpa [raise] using h.symm))
  · cases h

end Sys2Proof.Machine
end

