-- ==== Sys2Proof/Laws/Memory.lean ====
section
/-! SUPPORT. Memory: every write keeps the canonical form, and what a read gives after it. -/

namespace Sys2Proof.Machine

/-! ### One byte -/

theorem Memory.wfFrom_cons {lo a : Nat} {b : Byte} {m : Memory} :
    Memory.wfFrom lo ((a, b) :: m) = true ↔
      lo ≤ a ∧ a < 4294967296 ∧ b ≠ Memory.unwritten ∧ Memory.wfFrom (a + 1) m = true := by
  simp [Memory.wfFrom, and_assoc]

theorem Memory.wfFrom_mono {lo lo' : Nat} (h : lo' ≤ lo) {m : Memory} (hm : Memory.wfFrom lo m = true) :
    Memory.wfFrom lo' m = true := by
  cases m with
  | nil => rfl
  | cons c m =>
    obtain ⟨a, b⟩ := c
    rw [Memory.wfFrom_cons] at hm ⊢
    exact ⟨by omega, hm.2⟩

/-- Below the first entry everything reads as unwritten. -/
theorem Memory.read_below {lo p : Nat} (hp : p < lo) {m : Memory} (hm : Memory.wfFrom lo m = true) :
    Memory.read m p = Memory.unwritten := by
  cases m with
  | nil => rfl
  | cons c m =>
    obtain ⟨a, b⟩ := c
    rw [Memory.wfFrom_cons] at hm
    simp [Memory.read, show p < a by omega]

theorem Memory.write_wfFrom {lo p : Nat} (hlo : lo ≤ p) (hp : p < 4294967296) (v : Byte) {m : Memory}
    (hm : Memory.wfFrom lo m = true) : Memory.wfFrom lo (Memory.write m p v) = true := by
  induction m generalizing lo with
  | nil => unfold Memory.write; split <;> simp_all [Memory.wfFrom]
  | cons c m ih =>
    obtain ⟨a, b⟩ := c
    have hm' := hm
    rw [Memory.wfFrom_cons] at hm
    unfold Memory.write
    split
    · split
      · exact hm'
      · rw [Memory.wfFrom_cons, Memory.wfFrom_cons]
        exact ⟨hlo, hp, ‹_›, by omega, hm.2.1, hm.2.2.1, hm.2.2.2⟩
    · split
      · split
        · exact Memory.wfFrom_mono (by omega) hm.2.2.2
        · rw [Memory.wfFrom_cons]; exact ⟨hm.1, hm.2.1, ‹_›, hm.2.2.2⟩
      · rw [Memory.wfFrom_cons]; exact ⟨hm.1, hm.2.1, hm.2.2.1, ih (by omega) hm.2.2.2⟩

theorem Memory.write_wf {p : Nat} (hp : p < 4294967296) (v : Byte) {m : Memory} (hm : Memory.wf m = true) :
    Memory.wf (Memory.write m p v) = true :=
  Memory.write_wfFrom (Nat.zero_le p) hp v hm

theorem Memory.read_write_from {lo : Nat} (p : Nat) (v : Byte) (q : Nat) {m : Memory}
    (hm : Memory.wfFrom lo m = true) :
    Memory.read (Memory.write m p v) q = if q = p then v else Memory.read m q := by
  induction m generalizing lo with
  | nil =>
    unfold Memory.write
    by_cases hv : v = Memory.unwritten
    · simp [hv, Memory.read]
    · simp only [hv, if_false, Memory.read]
      by_cases hq : q = p
      · simp [hq]
      · by_cases hlt : q < p <;> simp [hq, hlt]
  | cons c m ih =>
    obtain ⟨a, b⟩ := c
    have hm' := hm
    rw [Memory.wfFrom_cons] at hm
    unfold Memory.write
    by_cases hpa : p < a
    · simp only [hpa, if_true]
      by_cases hv : v = Memory.unwritten
      · simp only [hv, if_true]
        by_cases hq : q = p
        · subst hq; simp [Memory.read, hpa]
        · simp [hq]
      · simp only [hv, if_false]
        rw [Memory.read]
        by_cases hq : q = p
        · simp [hq]
        · by_cases hlt : q < p
          · simp [hq, hlt, Memory.read, show q < a by omega]
          · simp [hq, hlt]
    · by_cases heq : p = a
      · subst heq
        simp only [Nat.lt_irrefl, if_false, if_true]
        by_cases hv : v = Memory.unwritten
        · simp only [hv, if_true]
          by_cases hq : q = p
          · subst hq; simp [Memory.read_below (Nat.lt_succ_self q) hm.2.2.2]
          · by_cases hlt : q < p
            · simp [hq, Memory.read, hlt, Memory.read_below (show q < p + 1 by omega) hm.2.2.2]
            · simp [hq, Memory.read, hlt]
        · simp only [hv, if_false, Memory.read]
          by_cases hq : q = p
          · simp [hq]
          · simp [hq]
      · simp only [hpa, heq, if_false, Memory.read]
        by_cases hqa : q < a
        · simp [hqa, show q ≠ p by omega]
        · by_cases hqe : q = a
          · simp [hqe, Ne.symm heq]
          · simp only [hqa, hqe, if_false]
            exact ih hm.2.2.2

theorem Memory.read_write {m : Memory} (hm : Memory.wf m = true) (p : Nat) (v : Byte) (q : Nat) :
    Memory.read (Memory.write m p v) q = if q = p then v else Memory.read m q :=
  Memory.read_write_from p v q hm

/-- Equal contents are equal lists. -/
theorem Memory.ext_from {lo : Nat} {m n : Memory} (hm : Memory.wfFrom lo m = true)
    (hn : Memory.wfFrom lo n = true) (h : ∀ p, Memory.read m p = Memory.read n p) : m = n := by
  induction m generalizing lo n with
  | nil =>
    cases n with
    | nil => rfl
    | cons c n =>
      obtain ⟨a, b⟩ := c
      rw [Memory.wfFrom_cons] at hn
      have := h a
      simp only [Memory.read, Nat.lt_irrefl, if_false, if_true] at this
      exact absurd this.symm hn.2.2.1
  | cons c m ih =>
    obtain ⟨a, b⟩ := c
    rw [Memory.wfFrom_cons] at hm
    cases n with
    | nil =>
      have := h a
      simp only [Memory.read, Nat.lt_irrefl, if_false, if_true] at this
      exact absurd this hm.2.2.1
    | cons d n =>
      obtain ⟨a', b'⟩ := d
      rw [Memory.wfFrom_cons] at hn
      have ha : a = a' := by
        have h1 := h a
        have h2 := h a'
        simp only [Memory.read, Nat.lt_irrefl, if_false, if_true] at h1 h2
        by_contra hne
        rcases Nat.lt_or_gt_of_ne hne with hlt | hlt
        · simp only [hlt, if_true] at h1; exact hm.2.2.1 h1
        · simp only [show a' < a from hlt, if_true] at h2; exact hn.2.2.1 h2.symm
      subst ha
      have hb : b = b' := by
        have h1 := h a
        simpa only [Memory.read, Nat.lt_irrefl, if_false, if_true] using h1
      subst hb
      congr 1
      refine ih hm.2.2.2 hn.2.2.2 fun p => ?_
      by_cases hp : p < a + 1
      · rw [Memory.read_below hp hm.2.2.2, Memory.read_below hp hn.2.2.2]
      · have h1 := h p
        simpa only [Memory.read, show ¬ p < a by omega, show p ≠ a by omega, if_false] using h1

theorem Memory.eq_of_read_eq {m n : Memory} (hm : Memory.wf m = true) (hn : Memory.wf n = true)
    (h : ∀ p, Memory.read m p = Memory.read n p) : m = n :=
  Memory.ext_from hm hn h

/-! ### The words stored to -/

theorem wordsRisingFrom_cons {lo a : Nat} {l : List Nat} :
    wordsRisingFrom lo (a :: l) = true ↔
      lo ≤ a ∧ a < 4294967296 ∧ a % 4 = 0 ∧ wordsRisingFrom (a + 1) l = true := by
  simp [wordsRisingFrom, and_assoc]

theorem wordsRisingFrom_mono {lo lo' : Nat} (h : lo' ≤ lo) {l : List Nat} (hl : wordsRisingFrom lo l = true) :
    wordsRisingFrom lo' l = true := by
  cases l with
  | nil => rfl
  | cons a l => rw [wordsRisingFrom_cons] at hl ⊢; exact ⟨by omega, hl.2⟩

theorem insertAddr_rising {lo p : Nat} (hlo : lo ≤ p) (hp : p < 4294967296) (h4 : p % 4 = 0) {l : List Nat}
    (hl : wordsRisingFrom lo l = true) : wordsRisingFrom lo (insertAddr p l) = true := by
  induction l generalizing lo with
  | nil => simp [insertAddr, wordsRisingFrom, hlo, hp, h4]
  | cons a l ih =>
    have hl' := hl
    rw [wordsRisingFrom_cons] at hl
    unfold insertAddr
    split
    · rw [wordsRisingFrom_cons, wordsRisingFrom_cons]
      exact ⟨hlo, hp, h4, by omega, hl.2.1, hl.2.2.1, hl.2.2.2⟩
    · split
      · exact hl'
      · rw [wordsRisingFrom_cons]
        exact ⟨hl.1, hl.2.1, hl.2.2.1, ih (by omega) hl.2.2.2⟩

theorem filter_rising (f : Nat → Bool) {lo : Nat} {l : List Nat} (hl : wordsRisingFrom lo l = true) :
    wordsRisingFrom lo (l.filter f) = true := by
  induction l generalizing lo with
  | nil => rfl
  | cons a l ih =>
    rw [wordsRisingFrom_cons] at hl
    rw [List.filter_cons]
    split
    · rw [wordsRisingFrom_cons]; exact ⟨hl.1, hl.2.1, hl.2.2.1, ih hl.2.2.2⟩
    · exact wordsRisingFrom_mono (by omega) (ih hl.2.2.2)

theorem mem_insertAddr (p q : Nat) (l : List Nat) : q ∈ insertAddr p l ↔ q = p ∨ q ∈ l := by
  induction l with
  | nil => simp [insertAddr]
  | cons a l ih =>
    unfold insertAddr
    split
    · simp
    · split
      · subst_vars; simp
      · simp [ih]; tauto

/-! ### Several bytes -/

/-- The addresses of a store are those of the physical space. -/
def CellsInSpace (cells : List Host.Cell) : Prop := ∀ c ∈ cells, c.1 < 4294967296

theorem State.storeBytes_wf {s : State} {cells : List Host.Cell} (hc : CellsInSpace cells)
    (hm : Memory.wf s.mem = true) : Memory.wf (s.storeBytes cells).mem = true := by
  induction cells generalizing s with
  | nil => exact hm
  | cons c cells ih =>
    exact ih (fun d hd => hc d (by simp [hd])) (Memory.write_wf (hc c (by simp)) _ hm)

theorem wordAddr_spec {p : Nat} (hp : p < 4294967296) : wordAddr p < 4294967296 ∧ wordAddr p % 4 = 0 := by
  unfold wordAddr; omega

theorem State.storeBytes_rising {s : State} {cells : List Host.Cell} (hc : CellsInSpace cells)
    (hm : wordsRisingFrom 0 s.stored = true) : wordsRisingFrom 0 (s.storeBytes cells).stored = true := by
  induction cells generalizing s with
  | nil => exact hm
  | cons c cells ih =>
    have h := wordAddr_spec (hc c (by simp))
    exact ih (fun d hd => hc d (by simp [hd])) (insertAddr_rising (Nat.zero_le _) h.1 h.2 hm)

/-- A byte outside the store reads as before. -/
theorem State.storeBytes_read_other {s : State} {cells : List Host.Cell} (hm : Memory.wf s.mem = true)
    (hc : CellsInSpace cells) {a : Nat} (ha : ∀ b, (a, b) ∉ cells) :
    Memory.read (s.storeBytes cells).mem a = Memory.read s.mem a := by
  induction cells generalizing s with
  | nil => rfl
  | cons c cells ih =>
    obtain ⟨p, b⟩ := c
    have hp : a ≠ p := fun h => ha b (by simp [h])
    rw [State.storeBytes, ih (Memory.write_wf (hc (p, b) (by simp)) b hm) (fun d hd => hc d (by simp [hd]))
      (fun b' hb' => ha b' (by simp [hb']))]
    simp [Memory.read_write hm, hp]

/-- A byte of the store reads as stored, the addresses being distinct. -/
theorem State.storeBytes_read_same {s : State} {cells : List Host.Cell} (hm : Memory.wf s.mem = true)
    (hc : CellsInSpace cells) (hd : (cells.map Prod.fst).Nodup) {p : Nat} {b : Byte} (h : (p, b) ∈ cells) :
    Memory.read (s.storeBytes cells).mem p = b := by
  induction cells generalizing s with
  | nil => cases h
  | cons c cells ih =>
    obtain ⟨q, d⟩ := c
    simp only [List.map_cons, List.nodup_cons] at hd
    have hm' := Memory.write_wf (hc (q, d) (by simp)) d hm
    have hc' : CellsInSpace cells := fun e he => hc e (by simp [he])
    rcases List.mem_cons.mp h with h | h
    · cases h
      rw [State.storeBytes, State.storeBytes_read_other (s := s.storeByte p b) hm' hc' (fun b' hb' =>
        hd.1 (List.mem_map.mpr ⟨(p, b'), hb', rfl⟩))]
      simp [Memory.read_write hm]
    · exact ih hm' hc' hd.2 h

theorem State.mem_storeBytes_stored (s : State) (cells : List Host.Cell) (w : Nat) :
    w ∈ (s.storeBytes cells).stored ↔ w ∈ s.stored ∨ ∃ p b, (p, b) ∈ cells ∧ w = wordAddr p := by
  induction cells generalizing s with
  | nil => simp [State.storeBytes]
  | cons c cells ih =>
    obtain ⟨q, d⟩ := c
    rw [State.storeBytes, ih]
    simp only [State.storeByte_stored, mem_insertAddr, List.mem_cons, Prod.mk.injEq]
    constructor
    · rintro ((h | h) | ⟨p, b, h, hw⟩)
      · exact .inr ⟨q, d, .inl ⟨rfl, rfl⟩, h⟩
      · exact .inl h
      · exact .inr ⟨p, b, .inr h, hw⟩
    · rintro (h | ⟨p, b, (⟨rfl, rfl⟩ | h), hw⟩)
      · exact .inl (.inr h)
      · exact .inl (.inl hw)
      · exact .inr ⟨p, b, h, hw⟩

/-! ### The bytes of an access -/

theorem physAt_lt (p : Word) (i : Nat) : physAt p i < 4294967296 := (p + BitVec.ofNat 32 i).isLt

theorem physAt_inj {p : Word} {i j : Nat} (hi : i < 4294967296) (hj : j < 4294967296) (h : physAt p i = physAt p j) :
    i = j := by
  have := BitVec.eq_of_toNat_eq h
  have := congrArg BitVec.toNat (add_left_cancel this)
  simp only [BitVec.toNat_ofNat] at this
  omega

theorem spanCells_inSpace (b : Bool) (p : Word) (n : Nat) (v : Word) : CellsInSpace (spanCells b p n v) := by
  intro c hc
  simp only [spanCells, List.mem_map] at hc
  obtain ⟨i, -, rfl⟩ := hc
  exact physAt_lt _ _

theorem laneCells_inSpace (b : Bool) (p : Word) (lo hi : Nat) (v : Word) : CellsInSpace (laneCells b p lo hi v) := by
  intro c hc
  simp only [laneCells, List.mem_map] at hc
  obtain ⟨i, -, rfl⟩ := hc
  exact physAt_lt _ _

theorem spanCells_addresses (b : Bool) (p : Word) (n : Nat) (v : Word) :
    (spanCells b p n v).map Prod.fst = spanBytes p n := by
  simp [spanCells, spanBytes]

theorem laneCells_addresses (b : Bool) (p : Word) (lo hi : Nat) (v : Word) :
    (laneCells b p lo hi v).map Prod.fst = laneBytes b p lo hi := by
  simp [laneCells, laneBytes]

theorem spanBytes_nodup (p : Word) {n : Nat} (hn : n ≤ 4) : (spanBytes p n).Nodup := by
  unfold spanBytes
  refine (List.nodup_map_iff_inj_on List.nodup_range).mpr fun i hi j hj h => ?_
  rw [List.mem_range] at hi hj
  exact physAt_inj (by omega) (by omega) h

theorem laneBytes_nodup (b : Bool) (p : Word) (lo hi : Nat) : (laneBytes b p lo hi).Nodup := by
  unfold laneBytes lanes
  refine (List.nodup_map_iff_inj_on (List.nodup_range.filter _)).mpr fun i hi j hj h => ?_
  rw [List.mem_filter, List.mem_range] at hi hj
  have hi := hi.1
  have hj := hj.1
  unfold laneOffset at h
  have := physAt_inj (by split <;> omega) (by split <;> omega) h
  revert this; split <;> omega

theorem placeBytes_wf {m : Memory} {cells : List Host.Cell} (hc : CellsInSpace cells) (hm : Memory.wf m = true) :
    Memory.wf (placeBytes m cells) = true := by
  induction cells generalizing m with
  | nil => exact hm
  | cons c cells ih =>
    exact ih (fun d hd => hc d (by simp [hd])) (Memory.write_wf (hc c (by simp)) _ hm)

/-- Reset's memory has the canonical form. -/
theorem State.reset_memory_wf : Memory.wf State.reset.mem = true := rfl

end Sys2Proof.Machine
end

