-- ==== Sys2Proof/Laws/Access.lean ====
section
/-! SUPPORT. Loads and stores: the bytes they touch, the lanes, and what a store leaves. -/

namespace Sys2Proof.Machine

/-! ### The addresses of the bytes -/

theorem physAt_zero (p : Word) : physAt p 0 = p.toNat := by simp [physAt]

theorem spanBytes_one (p : Word) : spanBytes p 1 = [p.toNat] := by simp [spanBytes, List.range_succ, physAt]

theorem spanBytes_two (p : Word) : spanBytes p 2 = [p.toNat, (p + 1#32).toNat] := by
  simp [spanBytes, List.range_succ, physAt]

theorem spanBytes_four (p : Word) :
    spanBytes p 4 = [p.toNat, (p + 1#32).toNat, (p + 2#32).toNat, (p + 3#32).toNat] := by
  simp [spanBytes, List.range_succ, physAt]

/-- The lane of the addressed byte, as a number (R56). -/
theorem laneIndex_eq (be : Bool) (addr : Word) :
    laneIndex be addr = if be then 3 - addr.toNat % 4 else addr.toNat % 4 := by
  have h : ∀ x : BitVec 2, (x ^^^ 3#2).toNat = 3 - x.toNat := by decide
  have h2 : (addr.extractLsb' 0 2).toNat = addr.toNat % 4 := by simp
  unfold laneIndex
  cases be
  · simp
  · simp only [if_true]; rw [h, h2]

theorem mem_laneCells {be : Bool} {p d : Word} {lo hi l : Nat} (h1 : lo ≤ l) (h2 : l ≤ hi) (h : l < 4) :
    (physAt (alignWord p) (laneOffset be l), byteOf d l) ∈ laneCells be p lo hi d := by
  unfold laneCells lanes
  exact List.mem_map.mpr ⟨l, by simp [h1, h2, h], rfl⟩

/-! ### The bytes of the words that are merged and stored -/

/-- Lane l of a memory word (R56). -/
theorem readWord_lane (m : Memory) (be : Bool) (p : Word) {l : Nat} (hl : l < 4) :
    (Memory.readWord m be p).extractLsb' (8 * l) 8 =
      Memory.read m (p + BitVec.ofNat 32 (if be then 3 - l else l)).toNat := by
  have h : l = 0 ∨ l = 1 ∨ l = 2 ∨ l = 3 := by omega
  rcases h with rfl | rfl | rfl | rfl <;> cases be <;> simp [Memory.readWord, physAt] <;> ext i hi <;> grind

/-- The bytes of LWL's value from the most significant on (R116). -/
theorem mergeLeft_byte {lane : Nat} (hl : lane ≤ 3) (m o : Word) {j : Nat} (hj : j < 4) :
    (mergeLeft lane m o).extractLsb' (8 * (3 - j)) 8 =
      if j ≤ lane then m.extractLsb' (8 * (lane - j)) 8 else o.extractLsb' (8 * (3 - j)) 8 := by
  have h1 : lane = 0 ∨ lane = 1 ∨ lane = 2 ∨ lane = 3 := by omega
  have h2 : j = 0 ∨ j = 1 ∨ j = 2 ∨ j = 3 := by omega
  rcases h1 with rfl | rfl | rfl | rfl <;> rcases h2 with rfl | rfl | rfl | rfl <;> simp [mergeLeft] <;>
    ext i hi <;> grind

/-- The bytes of LWR's value from the least significant on (R117). -/
theorem mergeRight_byte {lane : Nat} (hl : lane ≤ 3) (m o : Word) {j : Nat} (hj : j < 4) :
    (mergeRight lane m o).extractLsb' (8 * j) 8 =
      if j + lane ≤ 3 then m.extractLsb' (8 * (lane + j)) 8 else o.extractLsb' (8 * j) 8 := by
  have h1 : lane = 0 ∨ lane = 1 ∨ lane = 2 ∨ lane = 3 := by omega
  have h2 : j = 0 ∨ j = 1 ∨ j = 2 ∨ j = 3 := by omega
  rcases h1 with rfl | rfl | rfl | rfl <;> rcases h2 with rfl | rfl | rfl | rfl <;> simp [mergeRight] <;>
    ext i hi <;> grind

/-- The bytes that SWL stores (R121). -/
theorem storeLeftData_byte {lane l : Nat} (v : Word) (h1 : lane ≤ 3) (h : l ≤ lane) :
    byteOf (storeLeftData lane v) l = v.extractLsb' (8 * (3 - (lane - l))) 8 := by
  have h2 : lane = 0 ∨ lane = 1 ∨ lane = 2 ∨ lane = 3 := by omega
  have h3 : l = 0 ∨ l = 1 ∨ l = 2 ∨ l = 3 := by omega
  rcases h2 with rfl | rfl | rfl | rfl <;> rcases h3 with rfl | rfl | rfl | rfl <;>
    first | omega | (simp [byteOf, storeLeftData]; try (ext i hi; grind))

/-- The bytes that SWR stores (R123). -/
theorem storeRightData_byte {lane l : Nat} (v : Word) (h1 : l ≤ 3) (h : lane ≤ l) :
    byteOf (storeRightData lane v) l = v.extractLsb' (8 * (l - lane)) 8 := by
  have h2 : lane = 0 ∨ lane = 1 ∨ lane = 2 ∨ lane = 3 := by omega
  have h3 : l = 0 ∨ l = 1 ∨ l = 2 ∨ l = 3 := by omega
  rcases h2 with rfl | rfl | rfl | rfl <;> rcases h3 with rfl | rfl | rfl | rfl <;>
    first | omega | (simp [byteOf, storeRightData]; try (ext i hi; grind))

/-! ### Stores -/

theorem State.settled_storeBytes (s : State) (cells : List Host.Cell) (q : Reg) :
    (s.storeBytes cells).settled q = s.settled q := by
  unfold State.settled State.mergeOperand
  simp only [State.storeBytes_loadPending, State.gprRead_congr (s.storeBytes_gpr cells)]

/-- A store that is made leaves what R57 and R69 say. -/
theorem State.storeBytes_storesAt {s : State} {cells : List Host.Cell} (hm : Memory.wf s.mem = true)
    (hc : CellsInSpace cells) (hd : (cells.map Prod.fst).Nodup) :
    StoresAt s (s.storeBytes cells).retireMem cells where
  stored p b h := by simpa using State.storeBytes_read_same hm hc hd h
  others a h := by simpa using State.storeBytes_read_other hm hc h
  marked w := by simpa using s.mem_storeBytes_stored cells w
  registers q := by rw [State.gprRead_retireMem, State.settled_storeBytes]
  noPending := by simp
  goes := ⟨by simp, by simp, by simp⟩
  hilo := ⟨by simp, by simp, by simp⟩
  status := ⟨by simp, by simp⟩
  cop := ⟨by simp, by simp, by simp⟩
  inputs := ⟨by simp, by simp, by simp, by simp, by simp⟩
  aged := ⟨by simp, by simp⟩
  shadow := by simp
  lastWasMem := by simp

end Sys2Proof.Machine
end

