-- ==== Sys2Proof/Laws/Encoding.lean ====
section
/-! SUPPORT. What the decoder's field extractors read from the encoder's words. -/

namespace Sys2Proof

@[simp] theorem fieldOp_encodeI (op : BitVec 6) (rs rt : Reg) (imm : Imm) :
    fieldOp (encodeI op rs rt imm) = op := by
  unfold fieldOp encodeI; ext i hi; simp only [BitVec.getElem_extractLsb']; grind

@[simp] theorem fieldRs_encodeI (op : BitVec 6) (rs rt : Reg) (imm : Imm) :
    fieldRs (encodeI op rs rt imm) = rs := by
  unfold fieldRs encodeI; ext i hi; simp only [BitVec.getElem_extractLsb']; grind

@[simp] theorem fieldRt_encodeI (op : BitVec 6) (rs rt : Reg) (imm : Imm) :
    fieldRt (encodeI op rs rt imm) = rt := by
  unfold fieldRt encodeI; ext i hi; simp only [BitVec.getElem_extractLsb']; grind

@[simp] theorem fieldImm_encodeI (op : BitVec 6) (rs rt : Reg) (imm : Imm) :
    fieldImm (encodeI op rs rt imm) = imm := by
  unfold fieldImm encodeI; ext i hi; simp only [BitVec.getElem_extractLsb']; grind

@[simp] theorem fieldOp_encodeJ (op : BitVec 6) (target : BitVec 26) :
    fieldOp (encodeJ op target) = op := by
  unfold fieldOp encodeJ; ext i hi; simp only [BitVec.getElem_extractLsb']; grind

@[simp] theorem fieldTarget_encodeJ (op : BitVec 6) (target : BitVec 26) :
    fieldTarget (encodeJ op target) = target := by
  unfold fieldTarget encodeJ; ext i hi; simp only [BitVec.getElem_extractLsb']; grind

@[simp] theorem fieldOp_encodeR (rs rt rd : Reg) (shamt : BitVec 5) (funct : BitVec 6) :
    fieldOp (encodeR rs rt rd shamt funct) = 0b000000#6 := by
  unfold fieldOp encodeR; ext i hi; simp only [BitVec.getElem_extractLsb']; grind

@[simp] theorem fieldRs_encodeR (rs rt rd : Reg) (shamt : BitVec 5) (funct : BitVec 6) :
    fieldRs (encodeR rs rt rd shamt funct) = rs := by
  unfold fieldRs encodeR; ext i hi; simp only [BitVec.getElem_extractLsb']; grind

@[simp] theorem fieldRt_encodeR (rs rt rd : Reg) (shamt : BitVec 5) (funct : BitVec 6) :
    fieldRt (encodeR rs rt rd shamt funct) = rt := by
  unfold fieldRt encodeR; ext i hi; simp only [BitVec.getElem_extractLsb']; grind

@[simp] theorem fieldRd_encodeR (rs rt rd : Reg) (shamt : BitVec 5) (funct : BitVec 6) :
    fieldRd (encodeR rs rt rd shamt funct) = rd := by
  unfold fieldRd encodeR; ext i hi; simp only [BitVec.getElem_extractLsb']; grind

@[simp] theorem fieldShamt_encodeR (rs rt rd : Reg) (shamt : BitVec 5) (funct : BitVec 6) :
    fieldShamt (encodeR rs rt rd shamt funct) = shamt := by
  unfold fieldShamt encodeR; ext i hi; simp only [BitVec.getElem_extractLsb']; grind

@[simp] theorem fieldFunct_encodeR (rs rt rd : Reg) (shamt : BitVec 5) (funct : BitVec 6) :
    fieldFunct (encodeR rs rt rd shamt funct) = funct := by
  unfold fieldFunct encodeR; ext i hi; simp only [BitVec.getElem_extractLsb']; grind

@[simp] theorem fieldOp_encodeCode (code : BitVec 20) (funct : BitVec 6) :
    fieldOp (encodeCode code funct) = 0b000000#6 := by
  unfold fieldOp encodeCode; ext i hi; simp only [BitVec.getElem_extractLsb']; grind

@[simp] theorem fieldCode_encodeCode (code : BitVec 20) (funct : BitVec 6) :
    fieldCode (encodeCode code funct) = code := by
  unfold fieldCode encodeCode; ext i hi; simp only [BitVec.getElem_extractLsb']; grind

@[simp] theorem fieldFunct_encodeCode (code : BitVec 20) (funct : BitVec 6) :
    fieldFunct (encodeCode code funct) = funct := by
  unfold fieldFunct encodeCode; ext i hi; simp only [BitVec.getElem_extractLsb']; grind

@[simp] theorem fieldOp_encodeCopMove (z : CopUnit) (minor : BitVec 5) (rt : Reg) (rd : CopReg) :
    fieldOp (encodeCopMove z minor rt rd) = 0b0100#4 ++ z := by
  unfold fieldOp encodeCopMove; ext i hi; simp only [BitVec.getElem_extractLsb']; grind

@[simp] theorem fieldRs_encodeCopMove (z : CopUnit) (minor : BitVec 5) (rt : Reg) (rd : CopReg) :
    fieldRs (encodeCopMove z minor rt rd) = minor := by
  unfold fieldRs encodeCopMove; ext i hi; simp only [BitVec.getElem_extractLsb']; grind

@[simp] theorem fieldRt_encodeCopMove (z : CopUnit) (minor : BitVec 5) (rt : Reg) (rd : CopReg) :
    fieldRt (encodeCopMove z minor rt rd) = rt := by
  unfold fieldRt encodeCopMove; ext i hi; simp only [BitVec.getElem_extractLsb']; grind

@[simp] theorem fieldRd_encodeCopMove (z : CopUnit) (minor : BitVec 5) (rt : Reg) (rd : CopReg) :
    fieldRd (encodeCopMove z minor rt rd) = rd := by
  unfold fieldRd encodeCopMove; ext i hi; simp only [BitVec.getElem_extractLsb']; grind

@[simp] theorem fieldLow11_encodeCopMove (z : CopUnit) (minor : BitVec 5) (rt : Reg) (rd : CopReg) :
    fieldLow11 (encodeCopMove z minor rt rd) = 0#11 := by
  unfold fieldLow11 encodeCopMove; ext i hi; simp only [BitVec.getElem_extractLsb']; grind

@[simp] theorem fieldCo_encodeCopMove (z : CopUnit) (minor : BitVec 5) (rt : Reg) (rd : CopReg) :
    fieldCo (encodeCopMove z minor rt rd) = minor.extractLsb' 4 1 := by
  unfold fieldCo encodeCopMove; ext i hi; simp only [BitVec.getElem_extractLsb']; grind

@[simp] theorem fieldOp_encodeCopBranch (z : CopUnit) (cond : BitVec 5) (offset : Imm) :
    fieldOp (encodeCopBranch z cond offset) = 0b0100#4 ++ z := by
  unfold fieldOp encodeCopBranch; ext i hi; simp only [BitVec.getElem_extractLsb']; grind

@[simp] theorem fieldRs_encodeCopBranch (z : CopUnit) (cond : BitVec 5) (offset : Imm) :
    fieldRs (encodeCopBranch z cond offset) = 0b01000#5 := by
  unfold fieldRs encodeCopBranch; ext i hi; simp only [BitVec.getElem_extractLsb']; grind

@[simp] theorem fieldRt_encodeCopBranch (z : CopUnit) (cond : BitVec 5) (offset : Imm) :
    fieldRt (encodeCopBranch z cond offset) = cond := by
  unfold fieldRt encodeCopBranch; ext i hi; simp only [BitVec.getElem_extractLsb']; grind

@[simp] theorem fieldImm_encodeCopBranch (z : CopUnit) (cond : BitVec 5) (offset : Imm) :
    fieldImm (encodeCopBranch z cond offset) = offset := by
  unfold fieldImm encodeCopBranch; ext i hi; simp only [BitVec.getElem_extractLsb']; grind

@[simp] theorem fieldCo_encodeCopBranch (z : CopUnit) (cond : BitVec 5) (offset : Imm) :
    fieldCo (encodeCopBranch z cond offset) = 0#1 := by
  unfold fieldCo encodeCopBranch; ext i hi; simp only [BitVec.getElem_extractLsb']; grind

@[simp] theorem fieldOp_encodeCop0Operation (minor : BitVec 5) :
    fieldOp (encodeCop0Operation minor) = 0b010000#6 := by
  revert minor; decide

@[simp] theorem fieldCo_encodeCop0Operation (minor : BitVec 5) :
    fieldCo (encodeCop0Operation minor) = 1#1 := by
  revert minor; decide

@[simp] theorem fieldCofun_encodeCop0Operation (minor : BitVec 5) :
    fieldCofun (encodeCop0Operation minor) = 0#20 ++ minor := by
  revert minor; decide

end Sys2Proof
end

