-- ==== Sys2Proof/Laws/Exec.lean ====
section
/-! SUPPORT. Everything that can happen to the state, said once: `exec_effect` for the instructions, `runWord_effect`
for an instruction word, `stepUnder_cases` and `step_cases` for a step. -/

namespace Sys2Proof.Machine

/-- The ways in which instruction i takes state s to a next state. -/
inductive Effect (i : Instr) (s : State) : State → Prop
  /-- an exception of the instruction itself (R35 step 6) -/
  | enter (e : Exc) : Effect i s (takeException e s.land)
  /-- a store that is made (R125) -/
  | store (cells : List Host.Cell) : isStore i = true → CellsInSpace cells →
      (∃ x, s.accessOf i = some x ∧ x.kind = .store ∧ x.bytes = cells.map Prod.fst ∧
        s.Admits .store x.misaligned x.addr x.bytes) →
      Effect i s (s.storeBytes cells).retireMem
  /-- a result in a general register (R140) -/
  | register (rd : Reg) (v : Word) : destination i = some rd → s.targetOf i = none → Effect i s (s.retireReg rd v)
  /-- a load that is made (R124) -/
  | load (rt : Reg) (v : Word) : destination i = some rt → s.targetOf i = none →
      (∃ x, s.accessOf i = some x ∧ x.kind = .load ∧ s.Admits .load x.misaligned x.addr x.bytes) →
      Effect i s (s.retireLoad rt v)
  /-- a move from a coprocessor (R227) -/
  | move (rt : Reg) (v : Word) : destination i = some rt → s.targetOf i = none → Effect i s (s.retireMove rt v)
  /-- a jump or branch (R191) -/
  | transfer (taken : Bool) (target : Word) : s.targetOf i = some target → (taken = true ∨ isConditional i = true) →
      Effect i s (s.retireBranch taken target)
  /-- a jump or branch that links (R193) -/
  | link (taken : Bool) (target : Word) (r : Reg) (v : Word) : s.targetOf i = some target →
      (taken = true ∨ isConditional i = true) → destination i = some r →
      Effect i s ((s.retireBranch taken target).setReg r v)
  /-- MTC0 to SR (R245) -/
  | writeStatus (rt : Reg) (rd : CopReg) : i = .mtc0 rt rd → s.cp0Open = true →
      Effect i s { s.retireSeq with sr := s.readRt rt, mtcShadow := some (.sr s.sr) }
  /-- MTC0 to Cause (R245, R248) -/
  | writeCause (rt : Reg) (rd : CopReg) : i = .mtc0 rt rd → s.cp0Open = true →
      Effect i s
        { s.retireSeq with cause := causeWrite s.cause (s.readRt rt), mtcShadow := some (.cause s.cause) }
  /-- RFE (R243) -/
  | returnFrom : i = .rfe → s.cp0Open = true → Effect i s s.returnStatus.retireSeq
  /-- a write of HI and LO (R24) -/
  | hiLo (h l : Word) (fresh : Bool) : writesHiLo i = true → s.targetOf i = none →
      Effect i s { s.retireSeq with hi := h, lo := l, mdFresh := fresh }
  /-- MFHI (R263) -/
  | fromHi (rd : Reg) (v : Word) (m : Option MfRecord) : destination i = some rd → s.targetOf i = none →
      Effect i s { s.retireReg rd v with mfHi := m, mdFresh := false }
  /-- MFLO (R265) -/
  | fromLo (rd : Reg) (v : Word) (m : Option MfRecord) : destination i = some rd → s.targetOf i = none →
      Effect i s { s.retireReg rd v with mfLo := m, mdFresh := false }

variable {i : Instr} {s t : State}

theorem loadAccess_effect {m : Bool} {addr : Word} {bytes : List Nat} {rt : Reg} {v : Word}
    (h : loadAccess m addr bytes rt v s = .next t) (hd : destination i = some rt) (hb : s.targetOf i = none)
    (hx : s.accessOf i = some ⟨.load, m, addr, bytes⟩) : Effect i s t := by
  rcases loadAccess_cases h with ⟨ha, rfl⟩ | rfl | rfl
  · exact .load _ _ hd hb ⟨_, hx, rfl, ha⟩
  · exact .enter _
  · exact .enter _

theorem storeAccess_effect {m : Bool} {addr : Word} {bytes : List Nat} {cells : List Host.Cell}
    (h : storeAccess m addr cells s = .next t) (hs : isStore i = true) (hc : CellsInSpace cells)
    (hx : s.accessOf i = some ⟨.store, m, addr, bytes⟩) (hb : cells.map Prod.fst = bytes) : Effect i s t := by
  subst hb
  rcases storeAccess_cases h with ⟨ha, rfl⟩ | rfl | rfl
  · exact .store _ hs hc ⟨_, hx, rfl, rfl, ha⟩
  · exact .enter _
  · exact .enter _

theorem transfer_effect {u : State} (h : transfer s u = .next t) (he : Effect i s u) : Effect i s t := by
  unfold Machine.transfer at h
  split at h
  · cases h
  · cases h; exact he

theorem branchIf_effect {c : Bool} {off : Imm} (h : branchIf c off s = .next t)
    (hb : s.targetOf i = some (branchTarget s.pc off)) (hc : isConditional i = true) : Effect i s t :=
  transfer_effect h (.transfer _ _ hb (.inr hc))

theorem branchLinkIf_effect {rs : Reg} {c : Bool} {off : Imm} (h : branchLinkIf rs c off s = .next t)
    (hb : s.targetOf i = some (branchTarget s.pc off)) (hc : isConditional i = true) (hd : destination i = some 31#5) :
    Effect i s t := by
  unfold branchLinkIf at h
  split at h
  · cases h
  · split at h
    · cases h
    · cases h; exact .link _ _ _ _ hb (.inr hc) hd

theorem branchOnCop_effect {z : CopUnit} {c : Bool} {off : Imm} (h : branchOnCop z c off s = .next t)
    (hb : s.targetOf i = some (branchTarget s.pc off)) (hc : isConditional i = true) : Effect i s t := by
  unfold branchOnCop at h
  split at h
  · cases h
  · split at h
    · cases h; exact .enter _
    · split at h
      · cases h
      · exact branchIf_effect h hb hc

theorem copUndefined_cases {z : CopUnit} (h : copUndefined z s = .next t) : t = takeException (.cpu z) s.land := by
  unfold copUndefined at h
  split at h
  · cases h; rfl
  · cases h

theorem overflowOr_effect {o : Bool} {rd : Reg} {v : Word} (h : overflowOr o rd v s = .next t)
    (hb : s.targetOf i = none) (hd : destination i = some rd) : Effect i s t := by
  unfold overflowOr at h
  split at h
  · cases h; exact .enter _
  · cases h; exact .register _ _ hd hb

theorem writeDouble_effect {v : Word × Word} (h : writeDouble v s = .next t) (hb : s.targetOf i = none)
    (hw : writesHiLo i = true) : Effect i s t := by
  unfold writeDouble at h
  split at h
  · cases h
  · cases h; exact .hiLo _ _ _ hw hb

theorem execJalr_effect {rs rd : Reg} (h : execJalr rs rd s = .next t) : Effect (.jalr rs rd) s t := by
  unfold execJalr at h
  split at h
  · cases h
  · split at h
    · cases h
    · cases h; exact .link _ _ _ _ rfl (.inl rfl) rfl

theorem execMfc0_effect {rt : Reg} {rd : CopReg} (h : execMfc0 rt rd s = .next t) : Effect (.mfc0 rt rd) s t := by
  unfold execMfc0 at h
  split at h
  · cases h; exact .enter _
  · cases h; exact .move _ _ rfl rfl

theorem execMtc0_effect {rt : Reg} {rd : CopReg} (h : execMtc0 rt rd s = .next t) : Effect (.mtc0 rt rd) s t := by
  unfold execMtc0 at h
  split at h
  · cases h; exact .enter _
  · rename_i ho
    split at h
    · cases h; exact .writeStatus _ _ rfl (by simpa using ho)
    · split at h
      · cases h; exact .writeCause _ _ rfl (by simpa using ho)
      · cases h

theorem execRfe_effect (h : execRfe s = .next t) : Effect .rfe s t := by
  unfold execRfe at h
  split at h
  · cases h; exact .enter _
  · rename_i ho
    split at h
    · cases h
    · cases h; exact .returnFrom rfl (by simpa using ho)

theorem execMthi_effect {rs : Reg} (h : execMthi rs s = .next t) : Effect (.mthi rs) s t := by
  unfold execMthi at h
  split at h
  · cases h
  · cases h; exact .hiLo _ _ _ rfl rfl

theorem execMtlo_effect {rs : Reg} (h : execMtlo rs s = .next t) : Effect (.mtlo rs) s t := by
  unfold execMtlo at h
  split at h
  · cases h
  · cases h; exact .hiLo _ _ _ rfl rfl

/-- Everything an instruction can do. -/
theorem exec_effect (i : Instr) {s t : State} (h : exec i s = .next t) : Effect i s t := by
  cases i <;> simp only [exec] at h
  case jalr => exact execJalr_effect h
  case mfc0 => exact execMfc0_effect h
  case mtc0 => exact execMtc0_effect h
  case rfe => exact execRfe_effect h
  case mthi => exact execMthi_effect h
  case mtlo => exact execMtlo_effect h
  case lb | lbu | lh | lhu | lw | lwl | lwr => exact loadAccess_effect h rfl rfl rfl
  case sb | sh | sw =>
    exact storeAccess_effect h rfl (spanCells_inSpace _ _ _ _) rfl (spanCells_addresses ..)
  case swl | swr =>
    exact storeAccess_effect h rfl (laneCells_inSpace _ _ _ _ _) rfl (laneCells_addresses ..)
  case beq | bne | blez | bgtz | bltz | bgez => exact branchIf_effect h rfl rfl
  case bltzal | bgezal => exact branchLinkIf_effect h rfl rfl rfl
  case bc0f | bc0t | bc1f | bc1t | bc2f | bc2t | bc3f | bc3t => exact branchOnCop_effect h rfl rfl
  case mfc1 | mfc2 | mfc3 | mtc1 | mtc2 | mtc3 => rw [copUndefined_cases h]; exact .enter _
  case add | addi | sub => exact overflowOr_effect h rfl rfl
  case mult | multu | div | divu => exact writeDouble_effect h rfl rfl
  case j | jr => exact transfer_effect h (.transfer _ _ rfl (.inl rfl))
  case jal => exact transfer_effect h (.link _ _ _ _ rfl (.inl rfl) rfl)
  case mfhi => cases h; exact .fromHi _ _ _ rfl rfl
  case mflo => cases h; exact .fromLo _ _ _ rfl rfl
  case syscall | brk | tlbr | tlbwi | tlbwr | tlbp => cases h; exact .enter _
  all_goals cases h; exact .register _ _ rfl rfl

/-- Everything an instruction word can do (R92 to R94). -/
theorem runWord_effect {w : Word} {s t : State} (h : runWord w s = .next t) :
    (∃ i, (decode s.cfg.multVariant w = .instr i ∨ decode s.cfg.multVariant w = .mustBeZero i) ∧ Effect i s t) ∨
      ∃ e, t = takeException e s.land := by
  unfold runWord at h
  split at h
  · exact .inl ⟨_, .inl ‹_›, exec_effect _ h⟩
  · unfold runMustBeZero at h
    split at h
    · cases h
    · exact .inl ⟨_, .inr ‹_›, exec_effect _ h⟩
    · cases h; exact .inr ⟨_, rfl⟩
  · cases h; exact .inr ⟨_, rfl⟩
  · exact .inr ⟨_, copUndefined_cases h⟩

/-- An instruction has a target exactly if it is a jump or branch (R191). -/
theorem State.targetOf_eq_none_iff (s : State) (i : Instr) : s.targetOf i = none ↔ isTransfer i = false := by
  cases i <;> simp [State.targetOf, isTransfer]

/-! ### A step -/

/-- Everything a step under a settled visibility can do (R35, R331). -/
theorem stepUnder_cases (h : stepUnder s = .next t) :
    (s.pins.reset = true ∧ t = s.applyReset.nextSample) ∨
      (s.pins.reset = false ∧ ∃ e, t = (preempt e s).endStep) ∨
      (s.pins.reset = false ∧ s.interruptNow = false ∧
        ∃ w u, s.fetch = .word w ∧ runWord w s = .next u ∧ t = u.endStep) := by
  unfold stepUnder at h
  split at h
  · cases h; exact .inl ⟨‹_›, rfl⟩
  · rename_i hr
    rw [Bool.not_eq_true] at hr
    split at h
    · cases h; exact .inr (.inl ⟨hr, _, rfl⟩)
    · rename_i hi
      rw [Bool.not_eq_true] at hi
      split at h
      · rename_i w hw
        cases ho : runWord w s with
        | next u => rw [ho] at h; cases h; exact .inr (.inr ⟨hr, hi, w, u, hw, ho, rfl⟩)
        | fault f => rw [ho] at h; cases h
        | refused r => rw [ho] at h; cases h
      · cases h; exact .inr (.inl ⟨hr, _, rfl⟩)
      · cases h
      · cases h

/-- A step is one under a settled visibility, or both answers of R247 have given it. -/
theorem step_cases (h : step s = .next t) :
    (s.Settled ∧ stepUnder s = .next t) ∨
      (s.cfg.mtcVisibility = .unspecified ∧ ∃ a b, stepUnder (s.withVisibility .next) = .next a ∧
        stepUnder (s.withVisibility .afterOne) = .next b ∧
        t = a.withVisibility .unspecified ∧ t = b.withVisibility .unspecified) := by
  unfold step stepChecked at h
  split at h
  · rename_i hv _
    unfold agreeOutcome at h
    split at h <;> try cases h
    · rename_i a b ha hb
      split at h
      · rename_i hab; cases h; exact .inr ⟨hv, a, b, ha, hb, rfl, hab⟩
      · cases h
    all_goals (split at h <;> cases h)
  · rename_i hn
    refine .inl ⟨?_, h⟩
    unfold State.Settled
    cases hs : s.mtcShadow with
    | none => exact .inl rfl
    | some x => exact .inr fun hv => hn x hv hs

end Sys2Proof.Machine
end

