-- ==== Sys2Proof/Laws/PerInstr.lean ====
section
/-! SUPPORT. A statement about every instruction, one lemma per constructor: the encoder lays down the major
opcode that Table 3 gives the instruction, and the decoder reads that opcode back. -/

namespace Sys2Proof.Laws

/-- Table 3 (R86): bits 31:26 of the instruction's word. -/
def majorOpcode : Instr → BitVec 6
  | .lb _ _ _ => 0b100000#6
  | .lbu _ _ _ => 0b100100#6
  | .lh _ _ _ => 0b100001#6
  | .lhu _ _ _ => 0b100101#6
  | .lw _ _ _ => 0b100011#6
  | .lwl _ _ _ => 0b100010#6
  | .lwr _ _ _ => 0b100110#6
  | .sb _ _ _ => 0b101000#6
  | .sh _ _ _ => 0b101001#6
  | .sw _ _ _ => 0b101011#6
  | .swl _ _ _ => 0b101010#6
  | .swr _ _ _ => 0b101110#6
  | .addi _ _ _ => 0b001000#6
  | .addiu _ _ _ => 0b001001#6
  | .slti _ _ _ => 0b001010#6
  | .sltiu _ _ _ => 0b001011#6
  | .andi _ _ _ => 0b001100#6
  | .ori _ _ _ => 0b001101#6
  | .xori _ _ _ => 0b001110#6
  | .lui _ _ => 0b001111#6
  | .add _ _ _ => 0b000000#6
  | .addu _ _ _ => 0b000000#6
  | .sub _ _ _ => 0b000000#6
  | .subu _ _ _ => 0b000000#6
  | .and _ _ _ => 0b000000#6
  | .or _ _ _ => 0b000000#6
  | .xor _ _ _ => 0b000000#6
  | .nor _ _ _ => 0b000000#6
  | .slt _ _ _ => 0b000000#6
  | .sltu _ _ _ => 0b000000#6
  | .sll _ _ _ => 0b000000#6
  | .srl _ _ _ => 0b000000#6
  | .sra _ _ _ => 0b000000#6
  | .sllv _ _ _ => 0b000000#6
  | .srlv _ _ _ => 0b000000#6
  | .srav _ _ _ => 0b000000#6
  | .mult _ _ => 0b000000#6
  | .multu _ _ => 0b000000#6
  | .div _ _ => 0b000000#6
  | .divu _ _ => 0b000000#6
  | .j _ => 0b000010#6
  | .jal _ => 0b000011#6
  | .jr _ => 0b000000#6
  | .jalr _ _ => 0b000000#6
  | .beq _ _ _ => 0b000100#6
  | .bne _ _ _ => 0b000101#6
  | .blez _ _ => 0b000110#6
  | .bgtz _ _ => 0b000111#6
  | .bltz _ _ => 0b000001#6
  | .bgez _ _ => 0b000001#6
  | .bltzal _ _ => 0b000001#6
  | .bgezal _ _ => 0b000001#6
  | .bc0f _ => 0b010000#6
  | .bc0t _ => 0b010000#6
  | .bc1f _ => 0b010001#6
  | .bc1t _ => 0b010001#6
  | .bc2f _ => 0b010010#6
  | .bc2t _ => 0b010010#6
  | .bc3f _ => 0b010011#6
  | .bc3t _ => 0b010011#6
  | .mfc0 _ _ => 0b010000#6
  | .mtc0 _ _ => 0b010000#6
  | .mfc1 _ _ => 0b010001#6
  | .mtc1 _ _ => 0b010001#6
  | .mfc2 _ _ => 0b010010#6
  | .mtc2 _ _ => 0b010010#6
  | .mfc3 _ _ => 0b010011#6
  | .mtc3 _ _ => 0b010011#6
  | .rfe => 0b010000#6
  | .syscall _ => 0b000000#6
  | .brk _ => 0b000000#6
  | .mfhi _ => 0b000000#6
  | .mthi _ => 0b000000#6
  | .mflo _ => 0b000000#6
  | .mtlo _ => 0b000000#6
  | .tlbr => 0b010000#6
  | .tlbwi => 0b010000#6
  | .tlbwr => 0b010000#6
  | .tlbp => 0b010000#6

/-- The word of the instruction has its major opcode in the op field, under either `MULT_FUNCT_VARIANT`. -/
def EncodeFields.Statement (i : Instr) : Prop := ∀ v : MultVariant, fieldOp (encode v i) = majorOpcode i

theorem EncodeFields.lb base rt offset : EncodeFields.Statement (.lb base rt offset) :=
  fun _ => fieldOp_encodeI _ _ _ _

theorem EncodeFields.lbu base rt offset : EncodeFields.Statement (.lbu base rt offset) :=
  fun _ => fieldOp_encodeI _ _ _ _

theorem EncodeFields.lh base rt offset : EncodeFields.Statement (.lh base rt offset) :=
  fun _ => fieldOp_encodeI _ _ _ _

theorem EncodeFields.lhu base rt offset : EncodeFields.Statement (.lhu base rt offset) :=
  fun _ => fieldOp_encodeI _ _ _ _

theorem EncodeFields.lw base rt offset : EncodeFields.Statement (.lw base rt offset) :=
  fun _ => fieldOp_encodeI _ _ _ _

theorem EncodeFields.lwl base rt offset : EncodeFields.Statement (.lwl base rt offset) :=
  fun _ => fieldOp_encodeI _ _ _ _

theorem EncodeFields.lwr base rt offset : EncodeFields.Statement (.lwr base rt offset) :=
  fun _ => fieldOp_encodeI _ _ _ _

theorem EncodeFields.sb base rt offset : EncodeFields.Statement (.sb base rt offset) :=
  fun _ => fieldOp_encodeI _ _ _ _

theorem EncodeFields.sh base rt offset : EncodeFields.Statement (.sh base rt offset) :=
  fun _ => fieldOp_encodeI _ _ _ _

theorem EncodeFields.sw base rt offset : EncodeFields.Statement (.sw base rt offset) :=
  fun _ => fieldOp_encodeI _ _ _ _

theorem EncodeFields.swl base rt offset : EncodeFields.Statement (.swl base rt offset) :=
  fun _ => fieldOp_encodeI _ _ _ _

theorem EncodeFields.swr base rt offset : EncodeFields.Statement (.swr base rt offset) :=
  fun _ => fieldOp_encodeI _ _ _ _

theorem EncodeFields.addi rs rt imm : EncodeFields.Statement (.addi rs rt imm) :=
  fun _ => fieldOp_encodeI _ _ _ _

theorem EncodeFields.addiu rs rt imm : EncodeFields.Statement (.addiu rs rt imm) :=
  fun _ => fieldOp_encodeI _ _ _ _

theorem EncodeFields.slti rs rt imm : EncodeFields.Statement (.slti rs rt imm) :=
  fun _ => fieldOp_encodeI _ _ _ _

theorem EncodeFields.sltiu rs rt imm : EncodeFields.Statement (.sltiu rs rt imm) :=
  fun _ => fieldOp_encodeI _ _ _ _

theorem EncodeFields.andi rs rt imm : EncodeFields.Statement (.andi rs rt imm) :=
  fun _ => fieldOp_encodeI _ _ _ _

theorem EncodeFields.ori rs rt imm : EncodeFields.Statement (.ori rs rt imm) :=
  fun _ => fieldOp_encodeI _ _ _ _

theorem EncodeFields.xori rs rt imm : EncodeFields.Statement (.xori rs rt imm) :=
  fun _ => fieldOp_encodeI _ _ _ _

theorem EncodeFields.lui rt imm : EncodeFields.Statement (.lui rt imm) :=
  fun _ => fieldOp_encodeI _ _ _ _

theorem EncodeFields.add rs rt rd : EncodeFields.Statement (.add rs rt rd) :=
  fun _ => fieldOp_encodeR _ _ _ _ _

theorem EncodeFields.addu rs rt rd : EncodeFields.Statement (.addu rs rt rd) :=
  fun _ => fieldOp_encodeR _ _ _ _ _

theorem EncodeFields.sub rs rt rd : EncodeFields.Statement (.sub rs rt rd) :=
  fun _ => fieldOp_encodeR _ _ _ _ _

theorem EncodeFields.subu rs rt rd : EncodeFields.Statement (.subu rs rt rd) :=
  fun _ => fieldOp_encodeR _ _ _ _ _

theorem EncodeFields.and rs rt rd : EncodeFields.Statement (.and rs rt rd) :=
  fun _ => fieldOp_encodeR _ _ _ _ _

theorem EncodeFields.or rs rt rd : EncodeFields.Statement (.or rs rt rd) :=
  fun _ => fieldOp_encodeR _ _ _ _ _

theorem EncodeFields.xor rs rt rd : EncodeFields.Statement (.xor rs rt rd) :=
  fun _ => fieldOp_encodeR _ _ _ _ _

theorem EncodeFields.nor rs rt rd : EncodeFields.Statement (.nor rs rt rd) :=
  fun _ => fieldOp_encodeR _ _ _ _ _

theorem EncodeFields.slt rs rt rd : EncodeFields.Statement (.slt rs rt rd) :=
  fun _ => fieldOp_encodeR _ _ _ _ _

theorem EncodeFields.sltu rs rt rd : EncodeFields.Statement (.sltu rs rt rd) :=
  fun _ => fieldOp_encodeR _ _ _ _ _

theorem EncodeFields.sll rt rd shamt : EncodeFields.Statement (.sll rt rd shamt) :=
  fun _ => fieldOp_encodeR _ _ _ _ _

theorem EncodeFields.srl rt rd shamt : EncodeFields.Statement (.srl rt rd shamt) :=
  fun _ => fieldOp_encodeR _ _ _ _ _

theorem EncodeFields.sra rt rd shamt : EncodeFields.Statement (.sra rt rd shamt) :=
  fun _ => fieldOp_encodeR _ _ _ _ _

theorem EncodeFields.sllv rs rt rd : EncodeFields.Statement (.sllv rs rt rd) :=
  fun _ => fieldOp_encodeR _ _ _ _ _

theorem EncodeFields.srlv rs rt rd : EncodeFields.Statement (.srlv rs rt rd) :=
  fun _ => fieldOp_encodeR _ _ _ _ _

theorem EncodeFields.srav rs rt rd : EncodeFields.Statement (.srav rs rt rd) :=
  fun _ => fieldOp_encodeR _ _ _ _ _

theorem EncodeFields.mult rs rt : EncodeFields.Statement (.mult rs rt) :=
  fun _ => fieldOp_encodeR _ _ _ _ _

theorem EncodeFields.multu rs rt : EncodeFields.Statement (.multu rs rt) :=
  fun _ => fieldOp_encodeR _ _ _ _ _

theorem EncodeFields.div rs rt : EncodeFields.Statement (.div rs rt) :=
  fun _ => fieldOp_encodeR _ _ _ _ _

theorem EncodeFields.divu rs rt : EncodeFields.Statement (.divu rs rt) :=
  fun _ => fieldOp_encodeR _ _ _ _ _

theorem EncodeFields.j target : EncodeFields.Statement (.j target) :=
  fun _ => fieldOp_encodeJ _ _

theorem EncodeFields.jal target : EncodeFields.Statement (.jal target) :=
  fun _ => fieldOp_encodeJ _ _

theorem EncodeFields.jr rs : EncodeFields.Statement (.jr rs) :=
  fun _ => fieldOp_encodeR _ _ _ _ _

theorem EncodeFields.jalr rs rd : EncodeFields.Statement (.jalr rs rd) :=
  fun _ => fieldOp_encodeR _ _ _ _ _

theorem EncodeFields.beq rs rt offset : EncodeFields.Statement (.beq rs rt offset) :=
  fun _ => fieldOp_encodeI _ _ _ _

theorem EncodeFields.bne rs rt offset : EncodeFields.Statement (.bne rs rt offset) :=
  fun _ => fieldOp_encodeI _ _ _ _

theorem EncodeFields.blez rs offset : EncodeFields.Statement (.blez rs offset) :=
  fun _ => fieldOp_encodeI _ _ _ _

theorem EncodeFields.bgtz rs offset : EncodeFields.Statement (.bgtz rs offset) :=
  fun _ => fieldOp_encodeI _ _ _ _

theorem EncodeFields.bltz rs offset : EncodeFields.Statement (.bltz rs offset) :=
  fun _ => fieldOp_encodeI _ _ _ _

theorem EncodeFields.bgez rs offset : EncodeFields.Statement (.bgez rs offset) :=
  fun _ => fieldOp_encodeI _ _ _ _

theorem EncodeFields.bltzal rs offset : EncodeFields.Statement (.bltzal rs offset) :=
  fun _ => fieldOp_encodeI _ _ _ _

theorem EncodeFields.bgezal rs offset : EncodeFields.Statement (.bgezal rs offset) :=
  fun _ => fieldOp_encodeI _ _ _ _

theorem EncodeFields.bc0f offset : EncodeFields.Statement (.bc0f offset) :=
  fun _ => fieldOp_encodeCopBranch _ _ _

theorem EncodeFields.bc0t offset : EncodeFields.Statement (.bc0t offset) :=
  fun _ => fieldOp_encodeCopBranch _ _ _

theorem EncodeFields.bc1f offset : EncodeFields.Statement (.bc1f offset) :=
  fun _ => fieldOp_encodeCopBranch _ _ _

theorem EncodeFields.bc1t offset : EncodeFields.Statement (.bc1t offset) :=
  fun _ => fieldOp_encodeCopBranch _ _ _

theorem EncodeFields.bc2f offset : EncodeFields.Statement (.bc2f offset) :=
  fun _ => fieldOp_encodeCopBranch _ _ _

theorem EncodeFields.bc2t offset : EncodeFields.Statement (.bc2t offset) :=
  fun _ => fieldOp_encodeCopBranch _ _ _

theorem EncodeFields.bc3f offset : EncodeFields.Statement (.bc3f offset) :=
  fun _ => fieldOp_encodeCopBranch _ _ _

theorem EncodeFields.bc3t offset : EncodeFields.Statement (.bc3t offset) :=
  fun _ => fieldOp_encodeCopBranch _ _ _

theorem EncodeFields.mfc0 rt rd : EncodeFields.Statement (.mfc0 rt rd) :=
  fun _ => fieldOp_encodeCopMove _ _ _ _

theorem EncodeFields.mtc0 rt rd : EncodeFields.Statement (.mtc0 rt rd) :=
  fun _ => fieldOp_encodeCopMove _ _ _ _

theorem EncodeFields.mfc1 rt rd : EncodeFields.Statement (.mfc1 rt rd) :=
  fun _ => fieldOp_encodeCopMove _ _ _ _

theorem EncodeFields.mtc1 rt rd : EncodeFields.Statement (.mtc1 rt rd) :=
  fun _ => fieldOp_encodeCopMove _ _ _ _

theorem EncodeFields.mfc2 rt rd : EncodeFields.Statement (.mfc2 rt rd) :=
  fun _ => fieldOp_encodeCopMove _ _ _ _

theorem EncodeFields.mtc2 rt rd : EncodeFields.Statement (.mtc2 rt rd) :=
  fun _ => fieldOp_encodeCopMove _ _ _ _

theorem EncodeFields.mfc3 rt rd : EncodeFields.Statement (.mfc3 rt rd) :=
  fun _ => fieldOp_encodeCopMove _ _ _ _

theorem EncodeFields.mtc3 rt rd : EncodeFields.Statement (.mtc3 rt rd) :=
  fun _ => fieldOp_encodeCopMove _ _ _ _

theorem EncodeFields.rfe : EncodeFields.Statement (.rfe) :=
  fun _ => fieldOp_encodeCop0Operation _

theorem EncodeFields.syscall code : EncodeFields.Statement (.syscall code) :=
  fun _ => fieldOp_encodeCode _ _

theorem EncodeFields.brk code : EncodeFields.Statement (.brk code) :=
  fun _ => fieldOp_encodeCode _ _

theorem EncodeFields.mfhi rd : EncodeFields.Statement (.mfhi rd) :=
  fun _ => fieldOp_encodeR _ _ _ _ _

theorem EncodeFields.mthi rs : EncodeFields.Statement (.mthi rs) :=
  fun _ => fieldOp_encodeR _ _ _ _ _

theorem EncodeFields.mflo rd : EncodeFields.Statement (.mflo rd) :=
  fun _ => fieldOp_encodeR _ _ _ _ _

theorem EncodeFields.mtlo rs : EncodeFields.Statement (.mtlo rs) :=
  fun _ => fieldOp_encodeR _ _ _ _ _

theorem EncodeFields.tlbr : EncodeFields.Statement (.tlbr) :=
  fun _ => fieldOp_encodeCop0Operation _

theorem EncodeFields.tlbwi : EncodeFields.Statement (.tlbwi) :=
  fun _ => fieldOp_encodeCop0Operation _

theorem EncodeFields.tlbwr : EncodeFields.Statement (.tlbwr) :=
  fun _ => fieldOp_encodeCop0Operation _

theorem EncodeFields.tlbp : EncodeFields.Statement (.tlbp) :=
  fun _ => fieldOp_encodeCop0Operation _

end Sys2Proof.Laws
end

