-- ==== Sys2Proof/WellFormed.lean ====
section
/-! DEFINITION. Which instructions obey the source's operand restrictions. The types of the fields
already hold every operand to its width, so what is left are the "may not" sentences of R197, R204
and R205. The machine does not test this predicate: "an attempt to execute this instruction is not
trapped", and the meanings of these three refuse the rest by checks of their own (R197, R206). -/

namespace Sys2Proof

/-- Operands that the source permits: JALR needs `rs ≠ rd` (R197), BLTZAL and BGEZAL need
`rs ≠ 31` (R204, R205); every other instruction takes every operand. -/
def Instr.wellFormed : Instr → Bool
  | .jalr rs rd => rs != rd
  | .bltzal rs _ => rs != 31#5
  | .bgezal rs _ => rs != 31#5
  | _ => true

end Sys2Proof
end

