-- ==== Sys2Proof/Tests/Slice0.lean ====
section
/-! SUPPORT. Tests. Expected results come from the spec: the words from the encodings of
spec/opcode_table.json, the results from the vectors of 95_test_vectors.md (named C1, M1, J1, L1, K1 …) and from
the rules named. At the end one witness for each statement that has hypotheses. -/

namespace Sys2Proof.Tests

open Sys2Proof Sys2Proof.Machine

-- one theorem at a time: a thread each for all of them at once is more than the memory limit of a check
set_option Elab.async false

/-! ### Ill-formed instructions -/

theorem test_wellFormed_refuses_jalr_same_register : Instr.wellFormed (.jalr 2#5 2#5) = false := by decide
theorem test_wellFormed_refuses_bltzal_of_r31 : Instr.wellFormed (.bltzal 31#5 3#16) = false := by decide
theorem test_wellFormed_refuses_bgezal_of_r31 : Instr.wellFormed (.bgezal 31#5 3#16) = false := by decide
theorem test_wellFormed_admits_others :
    (Instr.wellFormed (.jalr 2#5 31#5) && Instr.wellFormed (.bltzal 30#5 3#16)
      && Instr.wellFormed (.bgezal 0#5 3#16)) = true := by decide

/-! ### Decoding: every row of the table, its word written from the row's encoding -/

/-- Each word decodes to its instruction. -/
def decodesAll (l : List (Word × Instr)) : Bool := l.all fun p => decode .asPrinted p.1 == .instr p.2

theorem test_decode_loads_stores : decodesAll [
    (0x8022FFFD#32, .lb 1#5 2#5 0xFFFD#16),
    (0x9022FFFD#32, .lbu 1#5 2#5 0xFFFD#16),
    (0x8422FFFD#32, .lh 1#5 2#5 0xFFFD#16),
    (0x9422FFFD#32, .lhu 1#5 2#5 0xFFFD#16),
    (0x8C22FFFD#32, .lw 1#5 2#5 0xFFFD#16),
    (0x8822FFFD#32, .lwl 1#5 2#5 0xFFFD#16),
    (0x9822FFFD#32, .lwr 1#5 2#5 0xFFFD#16),
    (0xA022FFFD#32, .sb 1#5 2#5 0xFFFD#16),
    (0xA422FFFD#32, .sh 1#5 2#5 0xFFFD#16),
    (0xAC22FFFD#32, .sw 1#5 2#5 0xFFFD#16),
    (0xA822FFFD#32, .swl 1#5 2#5 0xFFFD#16),
    (0xB822FFFD#32, .swr 1#5 2#5 0xFFFD#16)] = true := by decide +kernel

theorem test_decode_immediates : decodesAll [
    (0x20228005#32, .addi 1#5 2#5 0x8005#16),
    (0x24228005#32, .addiu 1#5 2#5 0x8005#16),
    (0x28228005#32, .slti 1#5 2#5 0x8005#16),
    (0x2C228005#32, .sltiu 1#5 2#5 0x8005#16),
    (0x30228005#32, .andi 1#5 2#5 0x8005#16),
    (0x34228005#32, .ori 1#5 2#5 0x8005#16),
    (0x38228005#32, .xori 1#5 2#5 0x8005#16),
    (0x3C028005#32, .lui 2#5 0x8005#16)] = true := by decide +kernel

theorem test_decode_registers_and_shifts : decodesAll [
    (0x00221820#32, .add 1#5 2#5 3#5),
    (0x00221821#32, .addu 1#5 2#5 3#5),
    (0x00221822#32, .sub 1#5 2#5 3#5),
    (0x00221823#32, .subu 1#5 2#5 3#5),
    (0x00221824#32, .and 1#5 2#5 3#5),
    (0x00221825#32, .or 1#5 2#5 3#5),
    (0x00221826#32, .xor 1#5 2#5 3#5),
    (0x00221827#32, .nor 1#5 2#5 3#5),
    (0x0022182A#32, .slt 1#5 2#5 3#5),
    (0x0022182B#32, .sltu 1#5 2#5 3#5),
    (0x00021900#32, .sll 2#5 3#5 4#5),
    (0x00021902#32, .srl 2#5 3#5 4#5),
    (0x00021903#32, .sra 2#5 3#5 4#5),
    (0x00221804#32, .sllv 1#5 2#5 3#5),
    (0x00221806#32, .srlv 1#5 2#5 3#5),
    (0x00221807#32, .srav 1#5 2#5 3#5)] = true := by decide +kernel

theorem test_decode_multiply_divide_hilo : decodesAll [
    (0x0022000E#32, .mult 1#5 2#5),
    (0x00220018#32, .multu 1#5 2#5),
    (0x0022001A#32, .div 1#5 2#5),
    (0x0022001B#32, .divu 1#5 2#5),
    (0x00001810#32, .mfhi 3#5),
    (0x00200011#32, .mthi 1#5),
    (0x00001812#32, .mflo 3#5),
    (0x00200013#32, .mtlo 1#5)] = true := by decide +kernel

theorem test_decode_jumps_branches : decodesAll [
    (0x0AABCDEF#32, .j 0x2ABCDEF#26),
    (0x0EABCDEF#32, .jal 0x2ABCDEF#26),
    (0x00200008#32, .jr 1#5),
    (0x00201809#32, .jalr 1#5 3#5),
    (0x1022FFFD#32, .beq 1#5 2#5 0xFFFD#16),
    (0x1422FFFD#32, .bne 1#5 2#5 0xFFFD#16),
    (0x1820FFFD#32, .blez 1#5 0xFFFD#16),
    (0x1C20FFFD#32, .bgtz 1#5 0xFFFD#16),
    (0x0420FFFD#32, .bltz 1#5 0xFFFD#16),
    (0x0421FFFD#32, .bgez 1#5 0xFFFD#16),
    (0x0430FFFD#32, .bltzal 1#5 0xFFFD#16),
    (0x0431FFFD#32, .bgezal 1#5 0xFFFD#16)] = true := by decide +kernel

theorem test_decode_coprocessor : decodesAll [
    (0x4100FFFD#32, .bc0f 0xFFFD#16),
    (0x4101FFFD#32, .bc0t 0xFFFD#16),
    (0x4500FFFD#32, .bc1f 0xFFFD#16),
    (0x4501FFFD#32, .bc1t 0xFFFD#16),
    (0x4900FFFD#32, .bc2f 0xFFFD#16),
    (0x4901FFFD#32, .bc2t 0xFFFD#16),
    (0x4D00FFFD#32, .bc3f 0xFFFD#16),
    (0x4D01FFFD#32, .bc3t 0xFFFD#16),
    (0x40021800#32, .mfc0 2#5 3#5),
    (0x40821800#32, .mtc0 2#5 3#5),
    (0x44021800#32, .mfc1 2#5 3#5),
    (0x44821800#32, .mtc1 2#5 3#5),
    (0x48021800#32, .mfc2 2#5 3#5),
    (0x48821800#32, .mtc2 2#5 3#5),
    (0x4C021800#32, .mfc3 2#5 3#5),
    (0x4C821800#32, .mtc3 2#5 3#5)] = true := by decide +kernel

theorem test_decode_system : decodesAll [
    (0x42000010#32, .rfe),
    (0x0048D14C#32, .syscall 0x12345#20),
    (0x0048D14D#32, .brk 0x12345#20),
    (0x42000001#32, .tlbr),
    (0x42000002#32, .tlbwi),
    (0x42000006#32, .tlbwr),
    (0x42000008#32, .tlbp)] = true := by decide +kernel

/-- The two function codes of MULT and MULTU under `mips1_conventional` (R182). -/
theorem test_decode_conventional_multiply :
    (decode .mips1Conventional 0x00220018#32 == .instr (.mult 1#5 2#5)
      && decode .mips1Conventional 0x00220019#32 == .instr (.multu 1#5 2#5)
      && decode .mips1Conventional 0x0022000E#32 == .reserved) = true := by decide +kernel

/-! ### One step -/

/-- The vectors' start state (95_test_vectors.md 2.1) with some registers set. -/
def start (regs : List (Reg × Word)) : State :=
  regs.foldl (fun s p => s.setReg p.1 p.2) { State.reset with pc := 0x80001000#32, npc := 0x80001004#32 }

/-- The answer is a next state with the property. -/
def gives (o : Result) (f : State → Bool) : Bool :=
  match o with
  | .next t => f t
  | .fault _ => false
  | .refused _ => false

/-- The answer is the refusal. -/
def stops (o : Result) (r : Refusal) : Bool :=
  match o with
  | .next _ => false
  | .fault _ => false
  | .refused q => q == r

/-- One step on the word at `pc`. -/
def runs (w : Nat) (s : State) (f : State → Bool) : Bool := gives (step (s.withFetchWord 32 w)) f

/-- One step on the word writes v to register r. -/
def sets (w : Nat) (regs : List (Reg × Word)) (r : Reg) (v : Word) : Bool :=
  runs w (start regs) fun t => t.gprRead r == v && t.pc == 0x80001004#32

/-- One step on the word enters an exception: EPC, Cause, the vector; register r keeps v. -/
def enters (w : Nat) (s : State) (epc cause : Word) (r : Reg) (v : Word) : Bool :=
  runs w s fun t => t.epc == epc && t.cause == cause && t.pc == 0xBFC00180#32 && t.gprRead r == v

/-- C1, C2, C8, C6, C14, C15 -/
theorem test_add_sub_overflow :
    (sets 0x00221820 [(1#5, 0xFFFFFFFF#32), (2#5, 1#32)] 3#5 0#32
      && enters 0x00221820 (start [(1#5, 0x7FFFFFFF#32), (2#5, 1#32), (3#5, 0xDEADBEEF#32)]) 0x80001000#32 0x30#32
        3#5 0xDEADBEEF#32
      && sets 0x20227FFF [(1#5, 0x7FFF8000#32)] 2#5 0x7FFFFFFF#32
      && enters 0x2022FFFF (start [(1#5, 0x80000000#32), (2#5, 7#32)]) 0x80001000#32 0x30#32 2#5 7#32
      && sets 0x00221822 [(1#5, 5#32), (2#5, 7#32)] 3#5 0xFFFFFFFE#32
      && enters 0x00221822 (start [(1#5, 0x80000000#32), (2#5, 1#32), (3#5, 9#32)]) 0x80001000#32 0x30#32 3#5 9#32)
      = true := by decide +kernel

/-- C10, C11, C12, C19 -/
theorem test_unsigned_add_sub :
    (sets 0x00221821 [(1#5, 0x7FFFFFFF#32), (2#5, 1#32)] 3#5 0x80000000#32
      && sets 0x00220021 [(1#5, 3#32), (2#5, 4#32)] 0#5 0#32
      && sets 0x2422FFFF [(1#5, 0#32)] 2#5 0xFFFFFFFF#32
      && sets 0x00221823 [(1#5, 0x80000000#32), (2#5, 1#32)] 3#5 0x7FFFFFFF#32) = true := by decide +kernel

/-- C20 to C26, C28 -/
theorem test_logical :
    (sets 0x00221824 [(1#5, 0xFF00FF00#32), (2#5, 0x0FF00FF0#32)] 3#5 0x0F000F00#32
      && sets 0x3022FF00 [(1#5, 0xFFFFFFFF#32)] 2#5 0x0000FF00#32
      && sets 0x00221825 [(1#5, 0xFF00FF00#32), (2#5, 0x0FF00FF0#32)] 3#5 0xFFF0FFF0#32
      && sets 0x34228001 [(1#5, 0x12340000#32)] 2#5 0x12348001#32
      && sets 0x00221826 [(1#5, 0xFF00FF00#32), (2#5, 0x0FF00FF0#32)] 3#5 0xF0F0F0F0#32
      && sets 0x3822FFFF [(1#5, 0xFFFFFFFF#32)] 2#5 0xFFFF0000#32
      && sets 0x00221827 [(1#5, 0xFF00FF00#32), (2#5, 0x0FF00FF0#32)] 3#5 0x000F000F#32
      && sets 0x3C021234 [(2#5, 0xFFFFFFFF#32)] 2#5 0x12340000#32) = true := by decide +kernel

/-- C31, C33, C35, C37 -/
theorem test_set_on_less_than :
    (sets 0x0022182A [(1#5, 0x80000000#32), (2#5, 0x7FFFFFFF#32)] 3#5 1#32
      && sets 0x2822FFFF [(1#5, 0xFFFFFFFE#32)] 2#5 1#32
      && sets 0x0022182B [(1#5, 0xFFFFFFFF#32), (2#5, 1#32)] 3#5 0#32
      && sets 0x2C22FFFF [(1#5, 0xFFFFFFFE#32)] 2#5 1#32) = true := by decide +kernel

/-- C40, C44, C46, C49, C50, C52 -/
theorem test_shifts :
    (sets 0x00021900 [(2#5, 0x80000001#32)] 3#5 0x00000010#32
      && sets 0x00021902 [(2#5, 0x80000001#32)] 3#5 0x08000000#32
      && sets 0x00021903 [(2#5, 0x80000001#32)] 3#5 0xF8000000#32
      && sets 0x00221804 [(1#5, 0x24#32), (2#5, 0x80000001#32)] 3#5 0x00000010#32
      && sets 0x00221806 [(1#5, 0xFFFFFFFF#32), (2#5, 0x80000001#32)] 3#5 1#32
      && sets 0x00221807 [(1#5, 8#32), (2#5, 0x80000001#32)] 3#5 0xFF800000#32) = true := by decide +kernel

/-- One step on the word leaves HI and LO. -/
def hiLo (w : Nat) (a b hi lo : Word) : Bool :=
  runs w (start [(1#5, a), (2#5, b)]) fun t => t.hi == hi && t.lo == lo && t.mdFresh

/-- M1, M2, M5, M6 -/
theorem test_multiply :
    (hiLo 0x0022000E 0xFFFFFFFE#32 3#32 0xFFFFFFFF#32 0xFFFFFFFA#32
      && hiLo 0x0022000E 0x80000000#32 0x80000000#32 0x40000000#32 0#32
      && hiLo 0x00220018 0xFFFFFFFE#32 3#32 2#32 0xFFFFFFFA#32
      && hiLo 0x00220018 0xFFFFFFFF#32 0xFFFFFFFF#32 0xFFFFFFFE#32 1#32) = true := by decide +kernel

/-- M8, M9, M14, M15 -/
theorem test_divide :
    (hiLo 0x0022001A 0xFFFFFFF9#32 2#32 0xFFFFFFFF#32 0xFFFFFFFD#32
      && hiLo 0x0022001A 7#32 0xFFFFFFFE#32 1#32 0xFFFFFFFD#32
      && hiLo 0x0022001B 0xFFFFFFF9#32 2#32 1#32 0x7FFFFFFC#32
      && hiLo 0x0022001B 0x80000000#32 0xFFFFFFFF#32 0x80000000#32 0#32) = true := by decide +kernel

/-- HI and LO set. -/
def withHiLo (s : State) : State := { s with hi := 0x11111111#32, lo := 0x22222222#32 }

/-- M17 to M20 with these HI and LO -/
theorem test_hiLo_moves :
    (runs 0x00001810 (withHiLo (start [])) (fun t => t.gprRead 3#5 == 0x11111111#32)
      && runs 0x00001812 (withHiLo (start [])) (fun t => t.gprRead 3#5 == 0x22222222#32)
      && runs 0x00200011 (withHiLo (start [(1#5, 5#32)])) (fun t => t.hi == 5#32 && t.lo == 0x22222222#32)
      && runs 0x00200013 (withHiLo (start [(1#5, 5#32)])) (fun t => t.lo == 5#32 && t.hi == 0x11111111#32))
      = true := by decide +kernel

/-- MS2 (R344) in one step: MULT in the window of an MFHI. -/
theorem test_multiply_after_mfhi :
    stops (step ({ start [] with mfHi := some { age := 1, rd := 3#5 } }.withFetchWord 32 0x0022000E)) .hiLoWriteTooSoon
      = true := by decide +kernel

/-- One step on the word goes to the delay slot and then to npc; r31 holds link. -/
def goes (w : Nat) (regs : List (Reg × Word)) (npc link : Word) : Bool :=
  runs w (start regs) fun t => t.pc == 0x80001004#32 && t.npc == npc && t.inDelaySlot && t.gprRead 31#5 == link

/-- R194, R195 (JS3), J5, J6 -/
theorem test_jumps :
    (goes 0x08000404 [] 0x80001010#32 0#32 && goes 0x0C000404 [] 0x80001010#32 0x80001008#32
      && goes 0x03E00008 [(31#5, 0x80002002#32)] 0x80002002#32 0x80002002#32
      && goes 0x0040F809 [(2#5, 0x80002000#32)] 0x80002000#32 0x80001008#32) = true := by decide +kernel

/-- J9, J10, J12, J19, J20, J25, J26, J15, and R192's sum with offset 0 (log entry 38) -/
theorem test_branches :
    (goes 0x10220003 [(1#5, 5#32), (2#5, 5#32)] 0x80001010#32 0#32
      && goes 0x10220003 [(1#5, 5#32), (2#5, 6#32)] 0x80001008#32 0#32
      && goes 0x1422FFFE [(1#5, 5#32), (2#5, 6#32)] 0x80000FFC#32 0#32
      && goes 0x18200003 [(1#5, 0x80000000#32)] 0x80001010#32 0#32
      && goes 0x1C200003 [(1#5, 0#32)] 0x80001008#32 0#32
      && goes 0x04200003 [(1#5, 0xFFFFFFFF#32)] 0x80001010#32 0#32
      && goes 0x04210003 [(1#5, 0#32)] 0x80001010#32 0#32
      && goes 0x10008000 [] 0x7FFE1004#32 0#32 && goes 0x10000000 [] 0x80001004#32 0#32) = true := by decide +kernel

/-- J29, J30 -/
theorem test_link_branches :
    (goes 0x04300003 [(1#5, 1#32)] 0x80001008#32 0x80001008#32
      && goes 0x04310003 [(1#5, 0#32)] 0x80001010#32 0x80001008#32) = true := by decide +kernel

/-- J8, J32, J33 and BLTZAL with rs = r31 (R206) -/
theorem test_undefined_transfers :
    (stops (step ((start [(2#5, 0x80002000#32)]).withFetchWord 32 0x00401009)) .jalrSameRegister
      && stops (step ((start [(31#5, 0#32)]).withFetchWord 32 0x07F10003)) .linkBranchOnLinkRegister
      && stops (step ((start [(31#5, 0#32)]).withFetchWord 32 0x07F00003)) .linkBranchOnLinkRegister
      && stops (step ({ start [] with inDelaySlot := true }.withFetchWord 32 0x10000003)) .branchInDelaySlot)
      = true := by decide +kernel

/-- The memory of the load and store vectors, and their registers, in either byte order. -/
def loadStart (be : Bool) : State :=
  let s := start [(4#5, 0x80002000#32), (2#5, 0xAABBCCDD#32)]
  { s with
    cfg := { s.cfg with bigEndian := be }
    mem := placeBytes [] [(0x2000, 0x11#8), (0x2001, 0x22#8), (0x2002, 0x33#8), (0x2003, 0x84#8),
      (0x2004, 0x55#8), (0x2005, 0x66#8), (0x2006, 0x77#8), (0x2007, 0x88#8)] }

/-- The load word leaves v pending for r2, in the two byte orders. -/
def loads (w : Nat) (big little : Word) : Bool :=
  runs w (loadStart true) (fun t => t.loadPending == some (2#5, big))
    && runs w (loadStart false) (fun t => t.loadPending == some (2#5, little))

/-- L1, L3, L5, L7, L9 -/
theorem test_loads :
    (loads 0x80820003 0xFFFFFF84#32 0xFFFFFF84#32 && loads 0x90820003 0x84#32 0x84#32
      && loads 0x84820002 0x3384#32 0xFFFF8433#32 && loads 0x94820002 0x3384#32 0x8433#32
      && loads 0x8C820000 0x11223384#32 0x84332211#32) = true := by decide +kernel

/-- L12, L13, L15, L16 -/
theorem test_unaligned_loads :
    (loads 0x88820001 0x223384DD#32 0x2211CCDD#32 && loads 0x88820002 0x3384CCDD#32 0x332211DD#32
      && loads 0x98820000 0xAABBCC11#32 0x84332211#32 && loads 0x98820001 0xAABB1122#32 0xAA843322#32)
      = true := by decide +kernel

/-- The store word leaves the eight bytes, in the two byte orders. -/
def stores (w : Nat) (big little : List Byte) : Bool :=
  let eight (t : State) := (List.range 8).map fun i => Memory.read t.mem (0x2000 + i)
  runs w (loadStart true) (fun t => eight t == big) && runs w (loadStart false) (fun t => eight t == little)

/-- L20, L23, L25 -/
theorem test_stores :
    (stores 0xA0820001 [0x11, 0xDD, 0x33, 0x84, 0x55, 0x66, 0x77, 0x88] [0x11, 0xDD, 0x33, 0x84, 0x55, 0x66, 0x77, 0x88]
      && stores 0xA4820000 [0xCC, 0xDD, 0x33, 0x84, 0x55, 0x66, 0x77, 0x88]
        [0xDD, 0xCC, 0x33, 0x84, 0x55, 0x66, 0x77, 0x88]
      && stores 0xAC820004 [0x11, 0x22, 0x33, 0x84, 0xAA, 0xBB, 0xCC, 0xDD]
        [0x11, 0x22, 0x33, 0x84, 0xDD, 0xCC, 0xBB, 0xAA]) = true := by decide +kernel

/-- L27, L31 -/
theorem test_unaligned_stores :
    (stores 0xA8820001 [0x11, 0xAA, 0xBB, 0xCC, 0x55, 0x66, 0x77, 0x88]
        [0xBB, 0xAA, 0x33, 0x84, 0x55, 0x66, 0x77, 0x88]
      && stores 0xB8820001 [0xCC, 0xDD, 0x33, 0x84, 0x55, 0x66, 0x77, 0x88]
        [0x11, 0xDD, 0xCC, 0xBB, 0x55, 0x66, 0x77, 0x88]) = true := by decide +kernel

/-- L34, L37, and L39 (user mode) -/
theorem test_address_errors :
    (runs 0x84820001 (loadStart true) (fun t => t.badVAddr == 0x80002001#32 && t.cause == 0x10#32)
      && runs 0xA4820001 (loadStart true) (fun t => t.badVAddr == 0x80002001#32 && t.cause == 0x14#32)
      && runs 0x8C820000 { loadStart true with sr := 0x00400002#32, pc := 0x3000#32, npc := 0x3004#32 }
        (fun t => t.badVAddr == 0x80002000#32 && t.sr == 0x00400008#32 && t.epc == 0x3000#32)) = true := by
  decide +kernel

/-- The vectors' memory on a platform whose bus answers an error for one byte, or that leaves that byte out. -/
def platformStart (mapped busErrors : List Region) : State :=
  let s := loadStart true
  { s with cfg := { s.cfg with mapped := mapped, busErrors := busErrors } }

/-- R110: SW on which the bus reports an error takes DBE and stores nothing. -/
theorem test_store_bus_error :
    runs 0xAC820000 (platformStart Config.default.mapped [⟨0x2000, 1, false, false, true⟩])
      (fun t => t.cause == 0x1C#32 && t.epc == 0x80001000#32 && t.stored == []
        && Memory.readWord t.mem true 0x2000#32 == 0x11223384#32) = true := by decide +kernel

/-- The vectors' start state with the given SR. -/
def withStatus (sr : Word) : State := { start [(2#5, 0x10000000#32)] with sr := sr }

/-- K1, K2, K4 -/
theorem test_rfe :
    (runs 0x42000010 (withStatus 0x10000034#32) (fun t => t.sr == 0x1000003D#32)
      && runs 0x42000010 (withStatus 0x0040000C#32) (fun t => t.sr == 0x00400003#32)
      && runs 0x42000010 { withStatus 0x1000000A#32 with pc := 0x3000#32, npc := 0x3004#32 }
        (fun t => t.sr == 0x10000002#32)) = true := by decide +kernel

/-- K5, K7, K8, K10 -/
theorem test_cp0_moves :
    (runs 0x40026000 (withStatus 0x10400000#32) (fun t => t.loadPending == some (2#5, 0x10400000#32))
      && runs 0x40026000 { withStatus 0x00000002#32 with pc := 0x3000#32, npc := 0x3004#32 }
        (fun t => t.epc == 0x3000#32 && t.cause == 0x28#32 && t.pc == 0x80000080#32)
      && runs 0x40826000 (withStatus 0x00400000#32) (fun t => t.sr == 0x10000000#32)
      && stops (step ((withStatus 0x00400000#32).withFetchWord 32 0x40821800)) (.cp0WriteUnmodelled 3#5)) = true := by
  decide +kernel

/-- K15, K16, K17, K18, K22 and BC1F, BC1T, BC2F, BC3F, BC3T with the unit unusable (R222) -/
theorem test_cop_branches :
    (runs 0x41000003 (withStatus 0x10400000#32) (fun t => t.npc == 0x80001010#32)
      && runs 0x41010003 (withStatus 0x10400000#32) (fun t => t.npc == 0x80001008#32)
      && runs 0x41010003 { withStatus 0x10400000#32 with cpcPrev := 1#4 } (fun t => t.npc == 0x80001010#32)
      && enters 0x41010003 (withStatus 0x00400000#32) 0x80001000#32 0x2C#32 0#5 0#32
      && enters 0x4901FFFF (withStatus 0x00400000#32) 0x80001000#32 0x2000002C#32 0#5 0#32
      && enters 0x45000003 (withStatus 0x00400000#32) 0x80001000#32 0x1000002C#32 0#5 0#32
      && enters 0x45010003 (withStatus 0x00400000#32) 0x80001000#32 0x1000002C#32 0#5 0#32
      && enters 0x49000003 (withStatus 0x00400000#32) 0x80001000#32 0x2000002C#32 0#5 0#32
      && enters 0x4D000003 (withStatus 0x00400000#32) 0x80001000#32 0x3000002C#32 0#5 0#32
      && enters 0x4D010003 (withStatus 0x00400000#32) 0x80001000#32 0x3000002C#32 0#5 0#32) = true := by
  decide +kernel

/-- K19, K20, K21 and the moves of the other units (R220); with Cu[z] = 1 all six are undefined (R227, R228) -/
theorem test_cop_moves :
    (enters 0x44026000 (withStatus 0x00400000#32) 0x80001000#32 0x1000002C#32 0#5 0#32
      && enters 0x44826000 (withStatus 0x00400000#32) 0x80001000#32 0x1000002C#32 0#5 0#32
      && enters 0x48026000 (withStatus 0x00400000#32) 0x80001000#32 0x2000002C#32 0#5 0#32
      && enters 0x48820000 (withStatus 0x00400000#32) 0x80001000#32 0x2000002C#32 0#5 0#32
      && enters 0x4C026000 (withStatus 0x00400000#32) 0x80001000#32 0x3000002C#32 0#5 0#32
      && enters 0x4C826000 (withStatus 0x00400000#32) 0x80001000#32 0x3000002C#32 0#5 0#32
      && stops (step ((withStatus 0xF0400000#32).withFetchWord 32 0x44026000)) (.coprocessorUndefined 1#2)
      && stops (step ((withStatus 0xF0400000#32).withFetchWord 32 0x48820000)) (.coprocessorUndefined 2#2)
      && stops (step ((withStatus 0xF0400000#32).withFetchWord 32 0x4C826000)) (.coprocessorUndefined 3#2)
      && stops (step ((withStatus 0xF0400000#32).withFetchWord 32 0x4A000010)) (.coprocessorUndefined 2#2)) = true := by
  decide +kernel

/-- K12 and the other TLB instructions, K25, K26, K27 -/
theorem test_reserved_instructions :
    (enters 0x42000008 (start []) 0x80001000#32 0x28#32 0#5 0#32
      && enters 0x42000001 (start []) 0x80001000#32 0x28#32 0#5 0#32
      && enters 0x42000002 (start []) 0x80001000#32 0x28#32 0#5 0#32
      && enters 0x42000006 (start []) 0x80001000#32 0x28#32 0#5 0#32
      && enters 0xC4820000 (start []) 0x80001000#32 0x28#32 0#5 0#32
      && enters 0xFFFFFFFF (start []) 0x80001000#32 0x28#32 0#5 0#32
      && enters 0x00000001 (start []) 0x80001000#32 0x28#32 0#5 0#32) = true := by decide +kernel

/-- K29, K30, K32 -/
theorem test_traps :
    (enters 0x0000000C (start []) 0x80001000#32 0x20#32 0#5 0#32
      && enters 0x000001CD (start []) 0x80001000#32 0x24#32 0#5 0#32
      && enters 0x0000000C { start [] with pc := 0x80001004#32, inDelaySlot := true } 0x80001000#32 0x80000020#32 0#5 0#32)
      = true := by decide +kernel

/-- LS6 (R295): the pending load lands although SYSCALL enters its exception. -/
theorem test_pending_load_lands_at_exception :
    enters 0x0000000C { start [] with loadPending := some (2#5, 0x11223384#32) } 0x80001000#32 0x20#32 2#5 0x11223384#32
      = true := by decide +kernel

/-- R296: an unmasked request with IEc = 1 is taken before the instruction. -/
theorem test_interrupt :
    runs 0x24020001 { withStatus 0x0040FF01#32 with pins := { irq := 4#6, cpc := 0#4, reset := false } }
      (fun t => t.epc == 0x80001000#32 && t.cause == 0#32 && t.sr == 0x0040FF04#32 && t.gprRead 2#5 == 0x10000000#32)
      = true := by decide +kernel

/-! ### Witnesses: the hypotheses of each statement hold together, clause by clause at the ends of its ranges -/

/-- A next state with the property, from an evaluated answer. -/
theorem next_of_gives {o : Result} {f : State → Bool} (h : gives o f = true) : ∃ t, o = .next t ∧ f t = true := by
  cases o with
  | next t => exact ⟨t, rfl, h⟩
  | fault e => cases h
  | refused r => cases h

/-- The access is admitted, from the evaluated checks. -/
theorem admits_of {s : State} {k : AccessKind} {m : Bool} {a : Word} {l : List Nat} (h : s.probe k m a l = .ok) :
    s.Admits k m a l := (s.probe_ok_iff k m a l).mp h

theorem witness_EncodeInvertsDecode : decode .asPrinted 0x00221821#32 = .instr (.addu 1#5 2#5 3#5) := by decide +kernel

theorem witness_EmptyCellsAreReserved :
    fieldOp 0x50000000#32 = 0b010100#6 ∧ fieldOp 0xBC000000#32 = 0b101111#6 ∧
    (fieldOp 0xC0000000#32).extractLsb' 4 2 = 0b11#2 ∧ (fieldOp 0xFC000000#32).extractLsb' 4 2 = 0b11#2 ∧
    fieldOp 0x00000001#32 = 0b000000#6 ∧ fieldFunct 0x00000001#32 = 0b000001#6 ∧
    fieldFunct 0x0000002F#32 = 0b101111#6 ∧ (fieldFunct 0x00000030#32).extractLsb' 4 2 = 0b11#2 ∧
    fieldOp 0x04020000#32 = 0b000001#6 ∧ fieldRt 0x04020000#32 = 0b00010#5 ∧ fieldRt 0x041F0000#32 = 0b11111#5 ∧
    fieldOp 0x40200000#32 = 0b010000#6 ∧ fieldRs 0x40200000#32 = 0b00001#5 ∧ fieldRs 0x41E00000#32 = 0b01111#5 ∧
    fieldRs 0x41020000#32 = 0b01000#5 ∧ fieldRt 0x41020000#32 = 0b00010#5 ∧
    fieldCo 0x42000000#32 = 1#1 ∧ fieldCofun 0x42000000#32 = 0#25 ∧ fieldCofun 0x43FFFFFF#32 = 0x1FFFFFF#25 := by
  decide +kernel

/-- Words with one bit of a constant-zero field set, one for each shape of field (R94, `mbz_mask` of the rows). -/
theorem test_must_be_zero_words :
    decode .asPrinted 0x3C210001#32 = .mustBeZero (.lui 1#5 1#16) ∧
    decode .asPrinted 0x02021900#32 = .mustBeZero (.sll 2#5 3#5 4#5) ∧
    decode .asPrinted 0x00221844#32 = .mustBeZero (.sllv 1#5 2#5 3#5) ∧
    decode .asPrinted 0x0022800E#32 = .mustBeZero (.mult 1#5 2#5) ∧
    decode .asPrinted 0x03F00008#32 = .mustBeZero (.jr 31#5) ∧
    decode .asPrinted 0x0030F809#32 = .mustBeZero (.jalr 1#5 31#5) ∧
    decode .asPrinted 0x1C210003#32 = .mustBeZero (.bgtz 1#5 3#16) ∧
    decode .asPrinted 0x02001010#32 = .mustBeZero (.mfhi 2#5) ∧
    decode .asPrinted 0x40026001#32 = .mustBeZero (.mfc0 2#5 12#5) := by decide +kernel

/-- A state with another `MBZ_POLICY`. -/
def withPolicy (p : MbzPolicy) : State := { State.reset with cfg := { Config.default with mbzPolicy := p } }

theorem witness_ReservedAndMustBeZeroWords :
    decode State.reset.cfg.multVariant 0xFFFFFFFF#32 = .reserved ∧
    (∀ p : MbzPolicy, (withPolicy p).cfg.mbzPolicy = p) ∧
    decode .asPrinted 0x00221861#32 = .mustBeZero (.addu 1#5 2#5 3#5) ∧
    0x00221861#32 ≠ encode .asPrinted (.addu 1#5 2#5 3#5) ∧
    0x00221861#32 &&& ~~~zeroBits (.addu 1#5 2#5 3#5) = encode .asPrinted (.addu 1#5 2#5 3#5) := by
  refine ⟨by decide +kernel, fun _ => rfl, ?_⟩
  decide +kernel

theorem witness_CoprocessorWordUnusable :
    (∀ z : CopUnit, State.reset.srView.getLsbD (28 + z.toNat) = false) ∧ (1#2 : CopUnit) ≠ 0#2 ∧
    (3#2 : CopUnit) ≠ 0#2 ∧ State.reset.inDelaySlot = false ∧
    (0x1020000#26).extractLsb' 21 5 = 0b01000#5 ∧ (0x1020000#26).extractLsb' 16 5 ∉ [0b00000#5, 0b00001#5] ∧
    (∀ z : CopUnit, (withStatus 0xF0400000#32).srView.getLsbD (28 + z.toNat) = true) ∧
    (0x2000000#26).getLsbD 25 = true ∧
    (0x0200000#26).extractLsb' 21 5 ∉ [0b00000#5, 0b00100#5, 0b01000#5] ∧
    (0x1FFFFFF#26).extractLsb' 21 5 ∉ [0b00000#5, 0b00100#5, 0b01000#5] ∧
    (0x0000001#26).extractLsb' 21 5 ∈ [0b00000#5, 0b00100#5] ∧ (0x0000001#26).extractLsb' 0 11 ≠ 0#11 := by
  decide +kernel

theorem witness_MemoryReadAfterWrite :
    Memory.wf [] = true ∧ 4294967295 < 4294967296 ∧ Memory.wf (Memory.write [] 4294967295 7#8) = true ∧
    ∀ p, Memory.read (Memory.write [] 4294967295 7#8) p = Memory.read [(4294967295, 7#8)] p :=
  ⟨rfl, by decide, rfl, fun _ => rfl⟩

theorem witness_StoredValueReadsBack : Memory.wf State.reset.mem = true := rfl

theorem witness_SegmentsMapToLowMemory :
    (0x80000000 ≤ (0x9FFFFFFF#32).toNat ∧ (0x9FFFFFFF#32).toNat < 0xA0000000) ∧
    (0xA0000000 ≤ (0xA0000000#32).toNat ∧ (0xBFFFFFFF#32).toNat < 0xC0000000) ∧
    (0x7FFFFFFF#32).toNat < 0x80000000 ∧ 0xC0000000 ≤ (0xC0000000#32).toNat ∧
    (0x1FFFFFFF#32).toNat < 0x20000000 := by decide

/-- A load is pending for r2. -/
def pendingStart : State := { start [(2#5, 5#32), (1#5, 6#32)] with loadPending := some (2#5, 9#32) }

theorem witness_LoadDelayAndRegisterZero :
    pendingStart.loadPending = some (2#5, 9#32) ∧ (2#5 : Reg) ≠ 0#5 ∧
    (∀ v, pendingStart.loadPending ≠ some (1#5, v)) ∧ (1#5 : Reg) ≠ 2#5 := by
  refine ⟨rfl, by decide, fun v h => ?_, by decide⟩
  simp [pendingStart] at h

/-- A state right after LW r2, 0(r4), with the pending value. -/
def afterLoad : State := { loadStart true with loadPending := some (2#5, 0x11223384#32), lastWasMem := true }

theorem witness_LoadLandsAfterNextInstruction :
    (∃ x t, (loadStart true).accessOf (.lw 4#5 2#5 0#16) = some x ∧ x.kind = .load ∧
      exec (.lw 4#5 2#5 0#16) (loadStart true) = .next t ∧ t.loadPending = some (2#5, 0x11223384#32)) ∧
    (∀ j ∈ [Instr.addiu 1#5 3#5 1#16, .addiu 2#5 2#5 1#16, .lh 4#5 2#5 1#16, .lw 4#5 3#5 4#16],
      ∃ u, exec j afterLoad = .next u) ∧
    destination (.addiu 1#5 3#5 1#16) ≠ some 2#5 ∧ destination (.addiu 2#5 2#5 1#16) = some 2#5 ∧
    destination (.lh 4#5 2#5 1#16) = some 2#5 ∧ ∃ u w, exec (.lw 4#5 3#5 4#16) afterLoad = .next u ∧
      u.loadPending = some (3#5, w) := by
  have load : gives (exec (.lw 4#5 2#5 0#16) (loadStart true))
    (fun t => t.loadPending == some (2#5, 0x11223384#32)) = true := by decide +kernel
  have next : ∀ j ∈ [Instr.addiu 1#5 3#5 1#16, .addiu 2#5 2#5 1#16, .lh 4#5 2#5 1#16, .lw 4#5 3#5 4#16],
    gives (exec j afterLoad) (fun _ => true) = true := by decide +kernel
  have second : gives (exec (.lw 4#5 3#5 4#16) afterLoad)
    (fun u => u.loadPending == some (3#5, 0x55667788#32)) = true := by decide +kernel
  obtain ⟨t, ht, hp⟩ := next_of_gives load
  obtain ⟨u, hu, hq⟩ := next_of_gives second
  refine ⟨⟨_, t, rfl, rfl, ht, by simpa using hp⟩, fun j hj => ?_, by decide, by decide, by decide, u, _, hu,
    by simpa using hq⟩
  obtain ⟨v, hv, -⟩ := next_of_gives (next j hj)
  exact ⟨v, hv⟩

theorem witness_AddSubResultOrOverflow :
    ((start [(1#5, 0x7FFFFFFE#32), (2#5, 1#32)]).readRs 1#5).toInt
        + ((start [(1#5, 0x7FFFFFFE#32), (2#5, 1#32)]).readRt 2#5).toInt = 2147483647 ∧
    ((start [(1#5, 0x7FFFFFFF#32), (2#5, 1#32)]).readRs 1#5).toInt
        + ((start [(1#5, 0x7FFFFFFF#32), (2#5, 1#32)]).readRt 2#5).toInt = 2147483648 ∧
    ((start [(1#5, 0x80000001#32)]).readRs 1#5).toInt + (0xFFFF#16).toInt = -2147483648 ∧
    ((start [(1#5, 0x80000000#32)]).readRs 1#5).toInt + (0xFFFF#16).toInt = -2147483649 ∧
    ((start [(2#5, 0x80000000#32)]).readRs 1#5).toInt
      - ((start [(2#5, 0x80000000#32)]).readRt 2#5).toInt = 2147483648 := by decide +kernel

theorem witness_MultiplyResults : State.reset.mfHi = none ∧ State.reset.mfLo = none := ⟨rfl, rfl⟩

/-- r1 and r2 for a division, under a `DIV_NUMERICS`. -/
def divideStart (n : DivNumerics) (a b : Word) : State :=
  let s := start [(1#5, a), (2#5, b)]
  { s with cfg := { s.cfg with divNumerics := n } }

theorem witness_DivideResults :
    (divideStart .undefined 0x80000000#32 1#32).mfHi = none ∧ (divideStart .undefined 0x80000000#32 1#32).mfLo = none ∧
    (divideStart .undefined 0x80000000#32 1#32).readRt 2#5 ≠ 0#32 ∧
    ¬ ((divideStart .undefined 0x80000000#32 1#32).readRs 1#5 = 0x80000000#32 ∧
      (divideStart .undefined 0x80000000#32 1#32).readRt 2#5 = 0xFFFFFFFF#32) := by decide +kernel

theorem witness_DivisionCorners :
    (∀ n, (divideStart n 7#32 0#32).cfg.divNumerics = n) ∧
    ∀ s ∈ [divideStart .r3000 7#32 0#32, divideStart .undefined 0x80000000#32 0xFFFFFFFF#32],
      s.mfHi = none ∧ s.mfLo = none ∧
        (s.readRt 2#5 = 0#32 ∨ (s.readRs 1#5 = 0x80000000#32 ∧ s.readRt 2#5 = 0xFFFFFFFF#32)) :=
  ⟨fun _ => rfl, by decide +kernel⟩

theorem witness_HiLoMoveResults : State.reset.mfHi = none ∧ State.reset.mfLo = none := ⟨rfl, rfl⟩

/-- The state right after MFHI (age 0), or one instruction later (age 1). -/
def afterMfhi (a : Fin 2) : State := { State.reset with mfHi := some { age := a, rd := 3#5 } }

/-- The state right after MFLO, or one instruction later. -/
def afterMflo (a : Fin 2) : State := { State.reset with mfLo := some { age := a, rd := 3#5 } }

theorem witness_HiLoWrittenTooSoonRefused :
    (afterMfhi 0).mfHi ≠ none ∧ (afterMfhi 1).mfHi ≠ none ∧ (afterMflo 0).mfLo ≠ none ∧ (afterMflo 1).mfLo ≠ none ∧
    (afterMfhi 0).mfLo = none := by decide

/-- An access that the checks admit: its kind, whether misaligned, its address and its bytes. -/
abbrev AdmittedAccess := AccessKind × Bool × Word × List Nat

/-- Every one of the accesses is admitted, from one evaluation of the checks. -/
theorem admits_all {s : State} {l : List AdmittedAccess}
    (h : (l.all fun x => s.probe x.1 x.2.1 x.2.2.1 x.2.2.2 == .ok) = true) :
    ∀ x ∈ l, s.Admits x.1 x.2.1 x.2.2.1 x.2.2.2 := fun x hx =>
  admits_of (by simpa using List.all_eq_true.mp h x hx)

theorem witness_LoadResults :
    (loadStart true).dataAddr 4#5 0#16 = (0#16).signExtend 32 + (loadStart true).readRs 4#5 ∧
    ∀ be, ∀ x ∈ ([(.load, false, 0x80002003#32, [0x2003]),
        (.load, (0x80002002#32).getLsbD 0, 0x80002002#32, [0x2002, 0x2003]),
        (.load, (0x80002000#32).extractLsb' 0 2 != 0#2, 0x80002000#32, [0x2000, 0x2001, 0x2002, 0x2003]),
        (.load, (0xFFFFFFFC#32).extractLsb' 0 2 != 0#2, 0xFFFFFFFC#32,
          [0xFFFFFFFC, 0xFFFFFFFD, 0xFFFFFFFE, 0xFFFFFFFF])] : List AdmittedAccess),
      (loadStart be).Admits x.1 x.2.1 x.2.2.1 x.2.2.2 := by
  refine ⟨rfl, fun be => admits_all ?_⟩
  cases be <;> decide +kernel

theorem witness_UnalignedLoadResults :
    ∀ be : Bool, ∀ a : Fin 4,
      (loadStart be).Admits .load false (0x80002000#32 + BitVec.ofNat 32 a.val)
        (laneBytes be (0x2000#32 + BitVec.ofNat 32 a.val) 0
          (laneIndex be (0x80002000#32 + BitVec.ofNat 32 a.val))) ∧
      (loadStart be).Admits .load false (0x80002000#32 + BitVec.ofNat 32 a.val)
        (laneBytes be (0x2000#32 + BitVec.ofNat 32 a.val)
          (laneIndex be (0x80002000#32 + BitVec.ofNat 32 a.val)) 3) := by
  have h : ∀ be : Bool, ∀ a : Fin 4,
      (loadStart be).probe .load false (0x80002000#32 + BitVec.ofNat 32 a.val)
        (laneBytes be (0x2000#32 + BitVec.ofNat 32 a.val) 0
          (laneIndex be (0x80002000#32 + BitVec.ofNat 32 a.val))) = .ok ∧
      (loadStart be).probe .load false (0x80002000#32 + BitVec.ofNat 32 a.val)
        (laneBytes be (0x2000#32 + BitVec.ofNat 32 a.val)
          (laneIndex be (0x80002000#32 + BitVec.ofNat 32 a.val)) 3) = .ok := by decide +kernel
  exact fun be a => ⟨admits_of (h be a).1, admits_of (h be a).2⟩

theorem witness_UnalignedPairLoadsWord :
    let s := loadStart true
    (s.cfg.bigEndian = true ∧ s.mtcShadow = none ∧ s.isPending 4#5 = false) ∧ (2#5 : Reg) ≠ 0#5 ∧ (4#5 : Reg) ≠ 2#5 ∧
    (0x80002001#32 = (1#16).signExtend 32 + s.gprRead 4#5 ∧
      (1#16 + 3#16).signExtend 32 = (1#16).signExtend 32 + 3#32) ∧
    (0x2001#32 = biu s.cfg 0x80002001#32 ∧ (0x2001#32).extractLsb' 0 2 = (0x80002001#32).extractLsb' 0 2 ∧
      biu s.cfg (0x80002001#32 + 3#32) = 0x2001#32 + 3#32) ∧
    ∀ x ∈ ([(.load, false, 0x80002001#32, laneBytes true 0x2001#32 0 (laneIndex true 0x80002001#32)),
        (.load, false, 0x80002001#32 + 3#32,
          laneBytes true (0x2001#32 + 3#32) (laneIndex true (0x80002001#32 + 3#32)) 3)] : List AdmittedAccess),
      s.Admits x.1 x.2.1 x.2.2.1 x.2.2.2 := by
  have registers : (loadStart true).isPending 4#5 = false ∧ (loadStart true).gprRead 4#5 = 0x80002000#32 := by
    decide +kernel
  have mapping : biu (loadStart true).cfg 0x80002001#32 = 0x2001#32 ∧
      biu (loadStart true).cfg 0x80002004#32 = 0x2004#32 := by decide +kernel
  refine ⟨⟨rfl, rfl, registers.1⟩, by decide, by decide, ⟨by rw [registers.2]; rfl, by decide⟩,
    ⟨mapping.1.symm, rfl, mapping.2⟩, admits_all (by decide +kernel)⟩

theorem witness_StoreResults :
    Memory.wf (loadStart true).mem = true ∧
    ∀ x ∈ ([(.store, false, 0x80002003#32, [0x2003]),
        (.store, (0x80002002#32).getLsbD 0, 0x80002002#32, [0x2002, 0x2003]),
        (.store, (0x80002004#32).extractLsb' 0 2 != 0#2, 0x80002004#32, [0x2004, 0x2005, 0x2006, 0x2007])] :
          List AdmittedAccess),
      (loadStart true).Admits x.1 x.2.1 x.2.2.1 x.2.2.2 := ⟨rfl, admits_all (by decide +kernel)⟩

theorem witness_UnalignedStoreResults :
    ∀ be : Bool, Memory.wf (loadStart be).mem = true ∧ ∀ a : Fin 4,
      (loadStart be).Admits .store false (0x80002000#32 + BitVec.ofNat 32 a.val)
        (laneBytes be (0x2000#32 + BitVec.ofNat 32 a.val) 0
          (laneIndex be (0x80002000#32 + BitVec.ofNat 32 a.val))) ∧
      (loadStart be).Admits .store false (0x80002000#32 + BitVec.ofNat 32 a.val)
        (laneBytes be (0x2000#32 + BitVec.ofNat 32 a.val)
          (laneIndex be (0x80002000#32 + BitVec.ofNat 32 a.val)) 3) := by
  have h : ∀ be : Bool, Memory.wf (loadStart be).mem = true ∧ ∀ a : Fin 4,
      (loadStart be).probe .store false (0x80002000#32 + BitVec.ofNat 32 a.val)
        (laneBytes be (0x2000#32 + BitVec.ofNat 32 a.val) 0
          (laneIndex be (0x80002000#32 + BitVec.ofNat 32 a.val))) = .ok ∧
      (loadStart be).probe .store false (0x80002000#32 + BitVec.ofNat 32 a.val)
        (laneBytes be (0x2000#32 + BitVec.ofNat 32 a.val)
          (laneIndex be (0x80002000#32 + BitVec.ofNat 32 a.val)) 3) = .ok := by decide +kernel
  exact fun be => ⟨(h be).1, fun a => ⟨admits_of ((h be).2 a).1, admits_of ((h be).2 a).2⟩⟩

/-- User mode, with r4 in its base. -/
def userStart (r4 : Word) : State :=
  { start [(4#5, r4)] with sr := 0x00400002#32, pc := 0x3000#32, npc := 0x3004#32 }

theorem witness_DataAddressErrors :
    (∃ x, (loadStart true).accessOf (.lh 4#5 2#5 1#16) = some x ∧ x.misaligned = true) ∧
    (∃ x, (userStart 0x80000000#32).accessOf (.sb 4#5 2#5 0#16) = some x ∧
      (userStart 0x80000000#32).beyondLimit x.addr) := by
  refine ⟨⟨_, rfl, by decide +kernel⟩, ⟨_, rfl, ?_⟩⟩
  unfold State.beyondLimit
  decide +kernel

theorem witness_DataBusErrors :
    let s := platformStart Config.default.mapped [⟨0x2000, 1, true, true, true⟩]
    (∃ x, s.accessOf (.lw 4#5 2#5 0#16) = some x ∧ x.misaligned = false ∧ ¬ s.beyondLimit x.addr ∧
      isBusError s.cfg x.kind (biu s.cfg x.addr) = true ∧ x.kind = .load) ∧
    (∃ x, s.accessOf (.sw 4#5 2#5 0#16) = some x ∧ x.misaligned = false ∧ ¬ s.beyondLimit x.addr ∧
      isBusError s.cfg x.kind (biu s.cfg x.addr) = true ∧ x.kind = .store) := by
  unfold State.beyondLimit
  exact ⟨⟨_, rfl, by decide +kernel⟩, ⟨_, rfl, by decide +kernel⟩⟩

theorem witness_UnmappedAccessFaults :
    let s := platformStart [⟨0, 0x2003, true, true, true⟩] []
    ∃ x, s.accessOf (.lw 4#5 2#5 0#16) = some x ∧ x.misaligned = false ∧ ¬ s.beyondLimit x.addr ∧
      isBusError s.cfg x.kind (biu s.cfg x.addr) = false ∧ ∃ p ∈ x.bytes, isMapped s.cfg x.kind p = false := by
  unfold State.beyondLimit
  exact ⟨_, rfl, by decide +kernel⟩

/-- The vectors' memory with a second base register, one byte above the word at 4(r4). -/
def twoBases : State := (loadStart true).setReg 5#5 0x80002005#32

theorem witness_LoadSeesPrecedingStore :
    let s := twoBases
    Memory.wf s.mem = true ∧ s.mtcShadow = none ∧ 0x80002004#32 = (4#16).signExtend 32 + s.readRs 4#5 ∧
    0x2004#32 = biu s.cfg 0x80002004#32 ∧
    (∀ k ∈ [AccessKind.store, .load],
      s.Admits k ((0x80002004#32).extractLsb' 0 2 != 0#2) 0x80002004#32 (spanBytes 0x2004#32 4) ∧
      s.Admits k ((0x80002004#32).getLsbD 0) 0x80002004#32 (spanBytes 0x2004#32 2) ∧
      s.Admits k false 0x80002004#32 (spanBytes 0x2004#32 1)) ∧
    (3#5 : Reg) ≠ 0#5 ∧ ∃ t, exec (.sw 4#5 2#5 4#16) s = .next t ∧
      (0xFFFF#16).signExtend 32 + t.readRs 5#5 = 0x80002004#32 ∧ (4#16).signExtend 32 + t.readRs 4#5 = 0x80002004#32 := by
  have h : ∀ k ∈ [AccessKind.store, .load],
      twoBases.probe k ((0x80002004#32).extractLsb' 0 2 != 0#2) 0x80002004#32 (spanBytes 0x2004#32 4) = .ok ∧
      twoBases.probe k ((0x80002004#32).getLsbD 0) 0x80002004#32 (spanBytes 0x2004#32 2) = .ok ∧
      twoBases.probe k false 0x80002004#32 (spanBytes 0x2004#32 1) = .ok := by decide +kernel
  obtain ⟨t, ht, hr⟩ := next_of_gives (o := exec (.sw 4#5 2#5 4#16) twoBases)
    (f := fun t => t.readRs 5#5 == 0x80002005#32 && t.readRs 4#5 == 0x80002000#32) (by decide +kernel)
  simp only [Bool.and_eq_true, beq_iff_eq] at hr
  refine ⟨rfl, rfl, rfl, rfl, fun k hk => ?_, by decide, t, ht, by rw [hr.1]; rfl, by rw [hr.2]; rfl⟩
  exact ⟨admits_of (h k hk).1, admits_of (h k hk).2.1, admits_of (h k hk).2.2⟩

theorem witness_StoredWordIsNotFetched :
    let s := loadStart true
    s.Admits .store ((0x80002000#32).extractLsb' 0 2 != 0#2) 0x80002000#32 (spanBytes (biu s.cfg 0x80002000#32) 4) ∧
    0x80002000#32 = (0#16).signExtend 32 + s.readRs 4#5 ∧
    (alignWord (biu s.cfg 0xA0002000#32) = alignWord (biu s.cfg 0x80002000#32) ∧
      (0xA0002000#32).extractLsb' 0 2 = 0#2 ∧ isBusError s.cfg .fetch (biu s.cfg 0xA0002000#32) = false ∧
      ∀ p ∈ spanBytes (alignWord (biu s.cfg 0xA0002000#32)) 4, isMapped s.cfg .fetch p = true) ∧
    ∃ t, exec (.sw 4#5 2#5 0#16) s = .next t ∧ ¬ { t with pc := 0xA0002000#32 }.beyondLimit 0xA0002000#32 := by
  obtain ⟨t, h, ht⟩ := next_of_gives (o := exec (.sw 4#5 2#5 0#16) (loadStart true))
    (f := fun t => !{ t with pc := 0xA0002000#32 }.user) (by decide +kernel)
  refine ⟨admits_of (by decide +kernel), rfl, ?_, t, h, fun hb => ?_⟩
  · decide +kernel
  · simp [hb.1] at ht

theorem witness_JumpResults : State.reset.inDelaySlot = false ∧ (1#5 : Reg) ≠ 2#5 := by decide

theorem witness_BranchResults : State.reset.inDelaySlot = false := rfl

theorem witness_LinkBranchResults : State.reset.inDelaySlot = false ∧ (30#5 : Reg) ≠ 31#5 := by decide

theorem witness_LinkBranchOnLinkRegister : State.reset.inDelaySlot = false := rfl

/-- Every unit usable, with the units that BCzF and BCzT are valid for and those the chip supports. -/
def unitsStart (valid supported : BitVec 4) : State :=
  let s := withStatus 0xF0400000#32
  { s with cfg := { s.cfg with bcValidZ := valid, supportedCop := supported } }

theorem witness_CoprocessorBranchResults :
    (unitsStart 15#4 0#4).inDelaySlot = false ∧
    ∀ z : CopUnit, (unitsStart 15#4 0#4).srView.getLsbD (28 + z.toNat) = true ∧
      (unitsStart 15#4 0#4).cfg.bcValidZ.getLsbD z.toNat = true := by decide +kernel

theorem witness_UndefinedTransfersRefused :
    isTransfer (.bc3t 0#16) = true ∧ { State.reset with inDelaySlot := true }.inDelaySlot = true ∧
    State.reset.inDelaySlot = false := by decide

theorem witness_Sequencing :
    (∃ t, exec (.j 0#26) (start []) = .next t) ∧ (∃ t, exec (.addu 1#5 2#5 3#5) (start []) = .next t) ∧
    (∃ t, exec (.syscall 0#20) (start []) = .next t) := ⟨⟨_, rfl⟩, ⟨_, rfl⟩, ⟨_, rfl⟩⟩

theorem witness_Mfc0Results :
    State.reset.cp0Open = true ∧ State.reset.mtcShadow = none ∧ State.reset.cfg.cp0Map = Config.default.cp0Map := by
  decide

theorem witness_Mtc0Results :
    State.reset.cp0Open = true ∧ State.reset.cfg.cp0Map = Config.default.cp0Map ∧ (0#5 : CopReg) ≠ 12#5 ∧
    (14#5 : CopReg) ≠ 13#5 := by decide

theorem witness_CoprocessorTraps :
    (∀ z : CopUnit, State.reset.srView.getLsbD (28 + z.toNat) = false) ∧ State.reset.inDelaySlot = false ∧
    (∀ z : CopUnit, (unitsStart 1#4 0#4).srView.getLsbD (28 + z.toNat) = true) ∧
    (unitsStart 1#4 0#4).inDelaySlot = false ∧
    (unitsStart 1#4 0#4).cfg.bcValidZ.getLsbD 1 = false ∧ (unitsStart 1#4 0#4).cfg.bcValidZ.getLsbD 3 = false ∧
    (userStart 0#32).srView.getLsbD 1 = true ∧ (userStart 0#32).srView.getLsbD 28 = false := by decide +kernel

theorem witness_RfeResult :
    State.reset.cp0Open = true ∧ State.reset.lastWasMem = false ∧ State.reset.mtcShadow = none ∧
    { State.reset with lastWasMem := true }.cp0Open = true := by decide

theorem witness_ReturnUndoesEntry : State.reset.mtcShadow = none := rfl

theorem witness_ExternalCoprocessorMoves :
    (∀ z : CopUnit, State.reset.srView.getLsbD (28 + z.toNat) = false) ∧
    ∀ z : CopUnit, ∀ supported ∈ [0#4, 15#4],
      (unitsStart 1#4 supported).srView.getLsbD (28 + z.toNat) = true := by decide +kernel

theorem witness_DefaultCodesAndVectors : State.reset.cfg = Config.default ∧ State.reset.mtcShadow = none := ⟨rfl, rfl⟩

/-- A state in which line 0 is requested, with a value of SR. -/
def lineRequested (sr : Word) : State := { withStatus sr with pins := { irq := 1#6, cpc := 0#4, reset := false } }

theorem witness_InterruptEntry :
    let s := lineRequested 0x00400401#32
    s.Settled ∧ s.pins.reset = false ∧ s.srView.getLsbD 0 = true ∧
    ((s.pins.irq ++ s.causeView.extractLsb' 8 2 : BitVec 8) &&& s.srView.extractLsb' 8 8) ≠ 0#8 := by
  refine ⟨.inl rfl, rfl, ?_, ?_⟩ <;> decide +kernel

/-- No interrupt is taken: IEc = 0 or every pending line is masked (R296). -/
def Quiet (s : State) : Prop :=
  s.srView.getLsbD 0 = false ∨
    ((s.pins.irq ++ s.causeView.extractLsb' 8 2 : BitVec 8) &&& s.srView.extractLsb' 8 8) = 0#8

/-- A line is requested and IEc = 0 (vector I3), or IEc = 1 and its mask bit is 0 (vector I4). -/
theorem witness_interrupt_not_taken :
    (∀ sr, (lineRequested sr).Settled) ∧ Quiet (lineRequested 0x00400400#32) ∧
    Quiet (lineRequested 0x00400801#32) ∧ (lineRequested 0x00400801#32).srView.getLsbD 0 = true :=
  ⟨fun _ => .inl rfl, .inl (by decide +kernel), .inr (by decide +kernel), by decide +kernel⟩

theorem witness_FetchErrors :
    (let s : State := { start [] with pc := 0x80002002#32 }
     s.Settled ∧ s.pins.reset = false ∧ Quiet s ∧ s.pc.extractLsb' 0 2 ≠ 0#2) ∧
    (let s : State := { userStart 0#32 with pc := 0x80000000#32 }
     s.Settled ∧ s.pins.reset = false ∧ Quiet s ∧ s.beyondLimit s.pc) ∧
    (let s : State := platformStart Config.default.mapped [⟨0x1000, 4, true, true, true⟩]
     s.Settled ∧ s.pins.reset = false ∧ Quiet s ∧ s.pc.extractLsb' 0 2 = 0#2 ∧
      ¬ s.beyondLimit s.pc ∧ isBusError s.cfg .fetch (biu s.cfg s.pc) = true) := by
  unfold State.beyondLimit Quiet
  refine ⟨⟨.inl rfl, rfl, ?_, ?_⟩, ⟨.inl rfl, rfl, ?_, ?_⟩, .inl rfl, rfl, ?_, ?_, ?_, ?_⟩ <;> decide +kernel

/-- The word where the vectors' program starts, in the vectors' registers and memory. -/
def stepStart (w : Nat) : State := (platformStart [⟨0, 0x2000, true, true, true⟩] []).withFetchWord 32 w

theorem witness_StepRunsDecodedInstruction :
    (∀ w ∈ [0x00221821, 0x8C820000, 0x00221861],
      (stepStart w).Settled ∧ (stepStart w).pins.reset = false ∧ Quiet (stepStart w) ∧
      (stepStart w).FetchAdmits ∧ (stepStart w).cfg.bigEndian = true ∧
      0x1000#32 = biu (stepStart w).cfg (stepStart w).pc &&& 0xFFFFFFFC#32 ∧
      BitVec.ofNat 32 w = Memory.read (stepStart w).mem 0x1000 ++ Memory.read (stepStart w).mem 0x1001 ++
        Memory.read (stepStart w).mem 0x1002 ++ Memory.read (stepStart w).mem 0x1003) ∧
    decode .asPrinted 0x00221821#32 = .instr (.addu 1#5 2#5 3#5) ∧
    (∃ t, runWord 0x00221821#32 (stepStart 0x00221821) = .next t) ∧
    (∃ f, runWord 0x8C820000#32 (stepStart 0x8C820000) = .fault f) ∧
    (∃ r, runWord 0x00221861#32 (stepStart 0x00221861) = .refused r) := by
  have fetched : ∀ w ∈ [0x00221821, 0x8C820000, 0x00221861], Quiet (stepStart w) ∧
      (stepStart w).user = false ∧ alignWord (biu (stepStart w).cfg (stepStart w).pc) = 0x1000#32 ∧
      0x1000#32 = biu (stepStart w).cfg (stepStart w).pc &&& 0xFFFFFFFC#32 ∧ BitVec.ofNat 32 w = Memory.read (stepStart w).mem 0x1000 ++
        Memory.read (stepStart w).mem 0x1001 ++ Memory.read (stepStart w).mem 0x1002 ++
        Memory.read (stepStart w).mem 0x1003 := by unfold Quiet; decide +kernel
  have mapped : ∀ p ∈ spanBytes 0x1000#32 4, isMapped (stepStart 0).cfg .fetch p = true := by decide +kernel
  refine ⟨fun w hw => ?_, by decide +kernel, ?_, ?_, ?_⟩
  · obtain ⟨hi, hu, ha, hp, hw⟩ := fetched w hw
    have hpc : (stepStart w).pc = 0x80001000#32 := rfl
    refine ⟨.inl rfl, rfl, hi, ⟨by rw [hpc]; rfl, fun hb => ?_, rfl, fun p hm => mapped p (ha ▸ hm), List.not_mem_nil⟩, rfl, hp, hw⟩
    exact absurd (hu ▸ hb.1) (by decide)
  · exact ⟨_, rfl⟩
  · exact ⟨_, rfl⟩
  · exact ⟨_, rfl⟩

/-- The step after an MTC0 that wrote SR without changing it. -/
def afterMtc0 (v : MtcVisibility) : State :=
  let s := (start [(1#5, 3#32), (2#5, 0x00400000#32)]).withFetchWord 32 0x00221821
  { s with cfg := { s.cfg with mtcVisibility := v }, mtcShadow := some (.sr 0x00400000#32) }

/-- The two answers of R247 for the step, both going on, agree or not. -/
def answersAgree (s : State) (agree : Bool) : Bool :=
  gives (step (s.withVisibility .next)) fun a => gives (step (s.withVisibility .afterOne)) fun b =>
    decide (a.withVisibility .unspecified = b.withVisibility .unspecified) == agree

/-- The step of MFC0 r2, SR right after an MTC0 that changed SR. -/
def readAfterMtc0 : State :=
  let s := (withStatus 0x00400000#32).withFetchWord 32 0x40026000
  { s with mtcShadow := some (.sr 0x10400000#32) }

theorem answersAgree_next {s : State} {agree : Bool} (h : answersAgree s agree = true) :
    ∃ a b, step (s.withVisibility .next) = .next a ∧ step (s.withVisibility .afterOne) = .next b ∧
      (a.withVisibility .unspecified = b.withVisibility .unspecified ↔ agree = true) := by
  obtain ⟨a, ha, h⟩ := next_of_gives h
  obtain ⟨b, hb, h⟩ := next_of_gives h
  exact ⟨a, b, ha, hb, by rw [← beq_iff_eq.mp h, decide_eq_true_iff]⟩

theorem witness_Mtc0Visibility_unspecified :
    (∀ s ∈ [afterMtc0 .unspecified, readAfterMtc0], s.cfg.mtcVisibility = .unspecified ∧ s.mtcShadow ≠ none) ∧
    (∃ u, step (afterMtc0 .unspecified) = .next u) ∧
    (∃ a b, step ((afterMtc0 .unspecified).withVisibility .next) = .next a ∧
      step ((afterMtc0 .unspecified).withVisibility .afterOne) = .next b ∧
      a.withVisibility .unspecified = b.withVisibility .unspecified) ∧
    (∃ a b, step (readAfterMtc0.withVisibility .next) = .next a ∧
      step (readAfterMtc0.withVisibility .afterOne) = .next b ∧
      a.withVisibility .unspecified ≠ b.withVisibility .unspecified) := by
  obtain ⟨u, h, -⟩ := next_of_gives (o := step (afterMtc0 .unspecified)) (f := fun _ => true) (by decide +kernel)
  obtain ⟨a, b, ha, hb, hab⟩ := answersAgree_next (s := afterMtc0 .unspecified) (agree := true) (by decide +kernel)
  obtain ⟨c, d, hc, hd, hcd⟩ := answersAgree_next (s := readAfterMtc0) (agree := false) (by decide +kernel)
  exact ⟨by decide +kernel, ⟨u, h⟩, ⟨a, b, ha, hb, hab.mpr rfl⟩, c, d, hc, hd, fun e => by simpa using hcd.mp e⟩

/-- Kernel mode with `MTC_VISIBILITY` given. -/
def visibilityStart (v : MtcVisibility) : State :=
  let s := withStatus 0x00400000#32
  { s with cfg := { s.cfg with mtcVisibility := v } }

theorem witness_Mtc0Visibility :
    ∀ v ∈ [MtcVisibility.next, MtcVisibility.afterOne],
      (visibilityStart v).cfg.mtcVisibility = v ∧ (visibilityStart v).cfg.cp0Map = Config.default.cp0Map ∧
      ∃ t u, exec (.mtc0 2#5 12#5) (visibilityStart v) = .next t ∧ t.mtcShadow ≠ none ∧ t.cp0Open = true ∧
        exec (.mfc0 3#5 12#5) t = .next u := by
  intro v hv
  refine ⟨rfl, rfl, ?_⟩
  obtain ⟨t, h, ht⟩ := next_of_gives (o := exec (.mtc0 2#5 12#5) (visibilityStart v))
    (f := fun t => t.mtcShadow.isSome && t.cp0Open && gives (exec (.mfc0 3#5 12#5) t) fun _ => true)
    (by simp only [List.mem_cons, List.not_mem_nil, or_false] at hv; rcases hv with rfl | rfl <;> decide +kernel)
  simp only [Bool.and_eq_true] at ht
  obtain ⟨u, hu, -⟩ := next_of_gives ht.2
  exact ⟨t, u, h, fun hn => by simp [hn] at ht, ht.1.2, hu⟩

theorem witness_ResetInput :
    { start [] with pins := { irq := 0#6, cpc := 0#4, reset := true } }.pins.reset = true ∧
    { afterMtc0 .unspecified with pins := { irq := 0#6, cpc := 0#4, reset := true } }.pins.reset = true := ⟨rfl, rfl⟩

theorem witness_StepKeepsInvariant : State.reset.Inv ∧ ∃ t, step State.reset = .next t := by
  obtain ⟨t, h, -⟩ := next_of_gives (o := step State.reset) (f := fun _ => true) (by decide +kernel)
  refine ⟨⟨rfl, rfl, rfl, fun r v hp => ?_, fun _ => rfl, rfl, fun c hc => ?_⟩, t, h⟩
  · simp [State.reset] at hp
  · simp [State.reset] at hc

theorem witness_OnlyNamedStateChanges :
    ∃ t, exec (.addu 1#5 2#5 3#5) (start []) = .next t ∧ destination (.addu 1#5 2#5 3#5) ≠ some 31#5 ∧
      isStore (.addu 1#5 2#5 3#5) = false ∧ writesHiLo (.addu 1#5 2#5 3#5) = false :=
  ⟨_, rfl, by decide, rfl, rfl⟩

/-- Kernel mode, with the user mode's SR in r2, under a given `MTC_VISIBILITY`. -/
def toUserStart : State :=
  let s := (start [(2#5, 0x00400002#32)]).withFetchWord 32 0x40826000
  { s with cfg := { s.cfg with mtcVisibility := .next } }

theorem witness_OnlyMtc0AndRfeEnterUserMode :
    toUserStart.mtcShadow = none ∧ toUserStart.user = false ∧ ∃ t, step toUserStart = .next t ∧ t.user = true := by
  obtain ⟨t, h, ht⟩ := next_of_gives (o := step toUserStart) (f := fun t => t.user) (by decide +kernel)
  exact ⟨rfl, by decide +kernel, t, h, ht⟩

/-- A user-mode state about to run the word. -/
def userRuns (w : Nat) (r4 : Word) : State := (userStart r4).withFetchWord 32 w

theorem witness_UserKeepsSystemRegisters :
    ∀ s ∈ [userRuns 0x00221821 0#32, userRuns 0x42000010 0#32,
        { userRuns 0x00221821 0#32 with pins := { irq := 0#6, cpc := 0#4, reset := true } }],
      s.mtcShadow = none ∧ s.sr.getLsbD 1 = true ∧ s.sr.getLsbD 28 = false ∧ ∃ t, step s = .next t := by
  have h : ∀ s ∈ [userRuns 0x00221821 0#32, userRuns 0x42000010 0#32,
        { userRuns 0x00221821 0#32 with pins := { irq := 0#6, cpc := 0#4, reset := true } }],
      s.mtcShadow = none ∧ s.sr.getLsbD 1 = true ∧ s.sr.getLsbD 28 = false ∧
        gives (step s) (fun _ => true) = true := by decide +kernel
  intro s hs
  obtain ⟨h1, h2, h3, h4⟩ := h s hs
  obtain ⟨t, ht, -⟩ := next_of_gives h4
  exact ⟨h1, h2, h3, t, ht⟩

theorem witness_UserStoresStayBelowLimit :
    (∀ o ∈ [0, 1], (userRuns (0xA0820000 + o) 0x7FFFFFFF#32).cfg = Config.default ∧
      Memory.wf (userRuns (0xA0820000 + o) 0x7FFFFFFF#32).mem = true ∧
      (userRuns (0xA0820000 + o) 0x7FFFFFFF#32).user = true ∧
      ∃ t, step (userRuns (0xA0820000 + o) 0x7FFFFFFF#32) = .next t) ∧
    (userRuns 0xA0820001 0x7FFFFFFF#32).fetch = .word 0xA0820001#32 ∧
    decode .asPrinted 0xA0820001#32 = .instr (.sb 4#5 2#5 1#16) ∧
    ∃ x, (userRuns 0xA0820001 0x7FFFFFFF#32).accessOf (.sb 4#5 2#5 1#16) = some x ∧ 0x80000000 ≤ x.addr.toNat := by
  have h : ∀ o ∈ [0, 1], Memory.wf (userRuns (0xA0820000 + o) 0x7FFFFFFF#32).mem = true ∧
      (userRuns (0xA0820000 + o) 0x7FFFFFFF#32).user = true ∧
      gives (step (userRuns (0xA0820000 + o) 0x7FFFFFFF#32)) (fun _ => true) = true := by decide +kernel
  refine ⟨fun o ho => ?_, by decide +kernel, by decide +kernel, _, rfl, by decide +kernel⟩
  obtain ⟨t, ht, -⟩ := next_of_gives (h o ho).2.2
  exact ⟨rfl, (h o ho).1, (h o ho).2.1, t, ht⟩

end Sys2Proof.Tests
end

section
/-! The overflow predicates of ADD, ADDI and SUB in the three forms of 00_scope.md R12. Each form is brought to a
statement about `toNat`, the one reading in which all three are linear arithmetic. -/

namespace Sys2Proof.Machine

theorem fitsSigned_eq_false_iff (n : Int) : (!fitsSigned n) = true ↔ n < -2147483648 ∨ 2147483647 < n := by
  simp only [fitsSigned, Bool.not_eq_true', Bool.and_eq_false_iff, decide_eq_false_iff_not, not_le]

/-- The sign bit is the top half of the unsigned range. -/
theorem getLsbD_31_eq_decide (a : Word) : a.getLsbD 31 = decide (2147483648 ≤ a.toNat) :=
  BitVec.msb_eq_decide a

/-- The signed value by the two halves of the unsigned range (R12). -/
theorem toInt_cases (a : Word) :
    (a.toNat < 2147483648 ∧ a.toInt = a.toNat) ∨
      (2147483648 ≤ a.toNat ∧ a.toNat < 4294967296 ∧ a.toInt = (a.toNat : Int) - 4294967296) := by
  have hlt := a.isLt
  rw [BitVec.toInt_eq_toNat_cond]
  split <;> omega

theorem ovfAdd_iff_range (a b : Word) :
    ovfAdd a b = true ↔ a.toInt + b.toInt < -2147483648 ∨ 2147483647 < a.toInt + b.toInt :=
  fitsSigned_eq_false_iff _

theorem ovfSub_iff_range (a b : Word) :
    ovfSub a b = true ↔ a.toInt - b.toInt < -2147483648 ∨ 2147483647 < a.toInt - b.toInt :=
  fitsSigned_eq_false_iff _

/-- Equal signs of the operands and another sign of the sum. -/
theorem ovfAdd_iff_signs (a b : Word) :
    ovfAdd a b = true ↔ a.getLsbD 31 = b.getLsbD 31 ∧ (a + b).getLsbD 31 ≠ a.getLsbD 31 := by
  simp only [ovfAdd_iff_range, getLsbD_31_eq_decide, BitVec.toNat_add, decide_eq_decide, ne_eq]
  have ha := toInt_cases a
  have hb := toInt_cases b
  omega

/-- Different signs of the operands and a difference whose sign is not the minuend's. -/
theorem ovfSub_iff_signs (a b : Word) :
    ovfSub a b = true ↔ a.getLsbD 31 ≠ b.getLsbD 31 ∧ (a - b).getLsbD 31 ≠ a.getLsbD 31 := by
  simp only [ovfSub_iff_range, getLsbD_31_eq_decide, BitVec.toNat_sub, decide_eq_decide, ne_eq]
  have ha := toInt_cases a
  have hb := toInt_cases b
  omega

/-- The carry out of bit 31 and the carry into it differ. -/
theorem ovfAdd_iff_carries (a b : Word) :
    ovfAdd a b = true ↔ decide (4294967296 ≤ a.toNat + b.toNat) ≠
      decide (2147483648 ≤ a.toNat % 2147483648 + b.toNat % 2147483648) := by
  simp only [ovfAdd_iff_range, decide_eq_decide, ne_eq]
  have ha := toInt_cases a
  have hb := toInt_cases b
  omega

/-- The same two carries of `a + ~b + 1`. -/
theorem ovfSub_iff_carries (a b : Word) :
    ovfSub a b = true ↔ decide (4294967296 ≤ a.toNat + (~~~b).toNat + 1) ≠
      decide (2147483648 ≤ a.toNat % 2147483648 + (~~~b).toNat % 2147483648 + 1) := by
  simp only [ovfSub_iff_range, BitVec.toNat_not, decide_eq_decide, ne_eq]
  have ha := toInt_cases a
  have hb := toInt_cases b
  omega

/-- Settles O16: each form by its own lemma. -/
theorem overflowIsCarryDisagreement : Obligations.OverflowIsCarryDisagreement := fun a b =>
  ⟨ovfAdd_iff_range a b, ovfAdd_iff_signs a b, ovfAdd_iff_carries a b,
    ovfSub_iff_range a b, ovfSub_iff_signs a b, ovfSub_iff_carries a b⟩

end Sys2Proof.Machine
end

section
/-! The invariant of the machine through every named update of the state, through an instruction's effect, and through
a step (R35). -/

namespace Sys2Proof.Machine

/-! ### The layout of Cause (R291) -/

/-- Only the bits outside `causeStored` matter. -/
theorem causeSound_of_agree {c d : Word} (hc : causeSound c)
    (h : ∀ i < 32, causeStored.getLsbD i = false → d.getLsbD i = c.getLsbD i) : causeSound d := by
  have hcd : d &&& ~~~causeStored = c &&& ~~~causeStored := BitVec.eq_of_getLsbD_eq fun i hi => by
    cases hs : causeStored.getLsbD i
    · simp [h i hi hs]
    · simp [hs]
  exact hcd.trans hc

theorem causeSound_and_stored (u : Word) : causeSound (u &&& causeStored) := by
  simp [causeSound, BitVec.and_assoc]

/-- Exception entry writes no bit of Cause that is not stored (R290). -/
theorem causeAfter_sound {c : Word} (hc : causeSound c) (bd : Bool) (code : BitVec 5) (e : Exc) :
    causeSound (causeAfter c bd code e) := by
  have outside : ∀ i < 32, causeStored.getLsbD i = false → i < 2 ∨ (7 ≤ i ∧ i < 28) ∨ i = 30 := by decide
  exact causeSound_of_agree hc fun i hi hs => causeAfter_other c bd code e (outside i hi hs)

/-- MTC0 to Cause writes bits 9:8 alone (R248). -/
theorem causeWrite_other (c data : Word) {i : Nat} (h : i ≠ 8 ∧ i ≠ 9) :
    (causeWrite c data).getLsbD i = c.getLsbD i := by
  unfold causeWrite; grind

theorem causeWrite_sound {c : Word} (hc : causeSound c) (data : Word) : causeSound (causeWrite c data) := by
  have outside : ∀ i < 32, causeStored.getLsbD i = false → i ≠ 8 ∧ i ≠ 9 := by decide
  exact causeSound_of_agree hc fun i hi hs => causeWrite_other c data (outside i hi hs)

/-! ### The cell of register 0 (R21) -/

theorem State.setReg_cell_zero (s : State) (r : Reg) (v : Word) : (s.setReg r v).gpr[0] = s.gpr[0] := by
  unfold State.setReg
  split
  · rfl
  · rename_i hr
    exact Vector.getElem_set_ne r.isLt (by decide) fun h => hr (BitVec.eq_of_toNat_eq h)

theorem State.land_cell_zero (s : State) : s.land.gpr[0] = s.gpr[0] := by
  unfold State.land
  split
  · exact s.setReg_cell_zero _ _
  · rfl

theorem State.applyReset_cell_zero (s : State) : s.applyReset.gpr[0] = 0#32 := by
  simp only [State.applyReset, Vector.getElem_ofFn, if_true]

/-! ### The invariant through each update -/

section
variable {s : State} (h : s.Inv)
include h

theorem State.Inv.setReg (r : Reg) (v : Word) : (s.setReg r v).Inv where
  memory := by simpa using h.memory
  storedWords := by simpa using h.storedWords
  registerZero := (s.setReg_cell_zero r v).trans h.registerZero
  pendingNotZero := by simpa using h.pendingNotZero
  sequential := by simpa using h.sequential
  cause := by simpa using h.cause
  causeShadow := by simpa using h.causeShadow

theorem State.Inv.land : s.land.Inv where
  memory := by simpa using h.memory
  storedWords := by simpa using h.storedWords
  registerZero := s.land_cell_zero.trans h.registerZero
  pendingNotZero := by simp
  sequential := by simpa using h.sequential
  cause := by simpa using h.cause
  causeShadow := by simpa using h.causeShadow

theorem State.Inv.landEarly : s.landEarly.Inv := by
  unfold State.landEarly
  split
  · exact h.setReg _ _
  · exact h

theorem State.Inv.dropPending (r : Reg) : (s.dropPending r).Inv := by
  unfold State.dropPending
  split
  · exact { h with pendingNotZero := fun _ _ hp => nomatch hp }
  · exact h

/-- Nothing becomes pending for register 0 (R32). -/
theorem State.Inv.setPending (r : Reg) (v : Word) : (s.setPending r v).Inv where
  __ := h
  pendingNotZero q w hq := by
    by_cases hr : r = 0#5
    · simp [State.setPending, hr] at hq
    · simp only [State.setPending, hr, if_false, Option.some.injEq, Prod.mk.injEq] at hq
      exact hq.1 ▸ hr

theorem State.Inv.storeBytes {cells : List Host.Cell} (hc : CellsInSpace cells) : (s.storeBytes cells).Inv where
  memory := State.storeBytes_wf hc h.memory
  storedWords := State.storeBytes_rising hc h.storedWords
  registerZero := by simpa using h.registerZero
  pendingNotZero := by simpa using h.pendingNotZero
  sequential := by simpa using h.sequential
  cause := by simpa using h.cause
  causeShadow := by simpa using h.causeShadow

/-- Completion keeps the invariant where the next `npc` follows the new `pc` or the next instruction is a delay slot
(R23). -/
theorem State.Inv.retire {n : Word} {slot : Bool} (hn : slot = false → n = s.npc + 4#32) (mem : Bool) :
    (s.retire n slot mem).Inv where
  __ := h.land
  sequential := hn
  causeShadow _ hc := nomatch hc

theorem State.Inv.retireSeq : s.retireSeq.Inv := h.retire (fun _ => rfl) false

theorem State.Inv.retireMem : s.retireMem.Inv := h.retire (fun _ => rfl) true

theorem State.Inv.retireBranch (taken : Bool) (target : Word) : (s.retireBranch taken target).Inv :=
  h.retire (slot := true) (fun hs => nomatch hs) false

theorem State.Inv.retireReg (rd : Reg) (v : Word) : (s.retireReg rd v).Inv := h.retireSeq.setReg rd v

theorem State.Inv.retireLoad (rt : Reg) (v : Word) : (s.retireLoad rt v).Inv :=
  (h.dropPending rt).retireMem.setPending rt v

theorem State.Inv.retireMove (rt : Reg) (v : Word) : (s.retireMove rt v).Inv :=
  (h.dropPending rt).retireSeq.setPending rt v

theorem State.Inv.takeException (e : Exc) : (takeException e s).Inv where
  __ := h
  sequential _ := rfl
  cause := causeAfter_sound h.cause _ _ e
  causeShadow _ hc := nomatch hc

theorem State.Inv.preempt (e : Exc) : (preempt e s).Inv := h.landEarly.takeException e

theorem State.Inv.nextSample : s.nextSample.Inv := by
  unfold State.nextSample
  split <;> exact { h with }

theorem State.Inv.endStep : s.endStep.Inv :=
  State.Inv.nextSample (s := { s with cpcPrev := s.pins.cpc }) { h with }

theorem State.Inv.withVisibility (v : MtcVisibility) : (s.withVisibility v).Inv := { h with }

/-- Reset asks only memory's canonical form of the state before it: every other field is given or drawn (R37). -/
theorem State.Inv.applyReset : s.applyReset.Inv where
  memory := by simpa using h.memory
  storedWords := by simp [wordsRisingFrom]
  registerZero := s.applyReset_cell_zero
  pendingNotZero := by simp
  sequential := by simp
  cause := by rw [State.applyReset_cause]; exact causeSound_and_stored _
  causeShadow := by simp

/-- Every instruction keeps the invariant. -/
theorem Effect.keeps_inv {i : Instr} {t : State} (he : Effect i s t) : t.Inv := by
  cases he with
  | enter e => exact h.land.takeException e
  | store cells _ hc _ => exact (h.storeBytes hc).retireMem
  | register rd v => exact h.retireReg rd v
  | load rt v => exact h.retireLoad rt v
  | move rt v => exact h.retireMove rt v
  | transfer taken target => exact h.retireBranch taken target
  | link taken target r v => exact (h.retireBranch taken target).setReg r v
  | writeStatus => exact { h.retireSeq with causeShadow := fun _ hc => nomatch hc }
  | writeCause rt =>
    exact { h.retireSeq with
      cause := causeWrite_sound h.cause _
      causeShadow := by rintro _ ⟨⟩; exact h.cause }
  | returnFrom => exact State.Inv.retireSeq (s := s.returnStatus) { h with }
  | hiLo => exact { h.retireSeq with }
  | fromHi rd v => exact { h.retireReg rd v with }
  | fromLo rd v => exact { h.retireReg rd v with }

theorem runWord_keeps_inv {w : Word} {t : State} (hr : runWord w s = .next t) : t.Inv := by
  obtain ⟨i, -, he⟩ | ⟨e, rfl⟩ := runWord_effect hr
  · exact Effect.keeps_inv h he
  · exact h.land.takeException e

theorem stepUnder_keeps_inv {t : State} (hst : stepUnder s = .next t) : t.Inv := by
  obtain ⟨-, rfl⟩ | ⟨-, e, rfl⟩ | ⟨-, -, w, u, -, hr, rfl⟩ := stepUnder_cases hst
  · exact h.applyReset.nextSample
  · exact (h.preempt e).endStep
  · exact (runWord_keeps_inv h hr).endStep

theorem step_keeps_inv {t : State} (hst : step s = .next t) : t.Inv := by
  obtain ⟨-, hu⟩ | ⟨-, a, b, ha, -, rfl, -⟩ := step_cases hst
  · exact stepUnder_keeps_inv h hu
  · exact (stepUnder_keeps_inv (h.withVisibility .next) ha).withVisibility .unspecified

end

/-! ### The parameters (R6) -/

section
variable {s t : State}

theorem Effect.cfg_eq {i : Instr} (he : Effect i s t) : t.cfg = s.cfg := by
  cases he <;> simp

theorem runWord_cfg {w : Word} (h : runWord w s = .next t) : t.cfg = s.cfg := by
  obtain ⟨i, -, he⟩ | ⟨e, rfl⟩ := runWord_effect h
  · exact he.cfg_eq
  · simp

theorem stepUnder_cfg (h : stepUnder s = .next t) : t.cfg = s.cfg := by
  obtain ⟨-, rfl⟩ | ⟨-, e, rfl⟩ | ⟨-, -, w, u, -, hr, rfl⟩ := stepUnder_cases h
  · simp
  · simp [preempt]
  · simpa using runWord_cfg hr

/-- The step after an MTC0 is taken under two other visibilities, and its result has the one of before (R247). -/
theorem step_cfg (h : step s = .next t) : t.cfg = s.cfg := by
  obtain ⟨-, hu⟩ | ⟨hv, a, b, ha, -, rfl, -⟩ := step_cases h
  · exact stepUnder_cfg hu
  · simp [State.withVisibility, stepUnder_cfg ha, ← hv]

end

/-- Settles O56: the parameters by `step_cfg`, the invariant by `step_keeps_inv`, both by the ways in which a step can
go (`step_cases`, `stepUnder_cases`, `runWord_effect`). -/
theorem stepKeepsInvariant : Obligations.StepKeepsInvariant := fun _ _ h =>
  ⟨step_cfg h, fun hi => step_keeps_inv hi h⟩

end Sys2Proof.Machine
end

section
/-! What an instruction leaves as it was, read off the ways in which it can go (`Effect`): registers, memory, HI and LO,
the status and exception registers, the inputs, the pending load, and where execution goes on (R23, R24, R32, R140). -/

namespace Sys2Proof.Machine

theorem State.settled_returnStatus (s : State) (q : Reg) : s.returnStatus.settled q = s.settled q := rfl

theorem SameMemory.of_eq {s t : State} (hm : t.mem = s.mem) (hs : t.stored = s.stored) : SameMemory s t :=
  ⟨fun _ => by rw [hm], hs⟩

theorem isTransfer_of_isStore {i : Instr} (h : isStore i = true) : isTransfer i = false := by
  cases i
  case sb | sh | sw | swl | swr => rfl
  all_goals cases h

/-- A jump or branch goes to its target; only one on a condition may fall through (R191, R192). -/
theorem GoesTo.taken_or_not {s t : State} {taken : Bool} {target : Word} {conditional : Prop}
    (h : GoesTo s t (if taken then target else s.npc + 4#32) true) (hc : taken = true ∨ conditional) :
    GoesTo s t target true ∨ (conditional ∧ GoesTo s t (s.npc + 4#32) true) := by
  cases taken with
  | true => exact .inl h
  | false => exact .inr ⟨by simpa using hc, h⟩

section
variable {i : Instr} {s t : State} (he : Effect i s t)
include he

/-- A register that is not the destination has only taken the pending load, if that was its own (R32, R140). -/
theorem Effect.gprRead_of_ne_destination {q : Reg} (hq : destination i ≠ some q) : t.gprRead q = s.settled q := by
  have ne {r : Reg} (hr : destination i = some r) : q ≠ r := fun h => hq (h ▸ hr)
  cases he with
  | enter e => exact (takeException_land_enters e s).registers q
  | store cells => rw [State.gprRead_retireMem, State.settled_storeBytes]
  | register rd v hd =>
    rw [(s.retireReg_computesInto rd v).result]
    by_cases h0 : q = 0#5 <;> simp [h0, ne hd]
  | load rt v hd => rw [(s.retireLoad_deliversTo rt v).others, if_neg (ne hd)]
  | move rt v hd => rw [(s.retireMove_deliversTo rt v).others, if_neg (ne hd)]
  | transfer taken target => exact s.gprRead_retireBranch taken target q
  | link taken target r v _ _ hd =>
    rw [State.gprRead_setReg, State.gprRead_retireBranch]
    by_cases h0 : q = 0#5 <;> simp [h0, ne hd]
  | writeStatus => exact s.gprRead_retireSeq q
  | writeCause => exact s.gprRead_retireSeq q
  | returnFrom => rw [State.gprRead_retireSeq, State.settled_returnStatus]
  | hiLo => exact s.gprRead_retireSeq q
  | fromHi rd v _ hd | fromLo rd v _ hd =>
    refine ((s.retireReg_computesInto rd v).result q).trans ?_
    by_cases h0 : q = 0#5 <;> simp [h0, ne hd]

/-- Memory and its marks change only by a store (R125). -/
theorem Effect.sameMemory (hi : isStore i = false) : SameMemory s t := by
  cases he with
  | store _ hs => simp [hi] at hs
  | _ => exact .of_eq (by simp) (by simp)

/-- HI and LO change only by the instructions that write them (R24). -/
theorem Effect.hiLo_eq (hi : writesHiLo i = false) : t.hi = s.hi ∧ t.lo = s.lo := by
  cases he with
  | hiLo _ _ _ hw => simp [hi] at hw
  | _ => exact ⟨by simp, by simp⟩

theorem Effect.sameInputs : SameInputs s t := by
  cases he <;> exact ⟨by simp, by simp, by simp, by simp, by simp⟩

/-- The status and exception registers change only by exception entry, RFE and MTC0, and every other instruction clears
`mtc_shadow` (R245, R243, R290, R35). -/
theorem Effect.status_cases :
    (SameStatus s t ∧ t.epc = s.epc ∧ t.badVAddr = s.badVAddr ∧ t.mtcShadow = none) ∨
      (∃ e, t = takeException e s.land) ∨ i = .rfe ∨ ∃ rt rd, i = .mtc0 rt rd := by
  cases he with
  | enter e => exact .inr (.inl ⟨e, rfl⟩)
  | writeStatus rt rd hi => exact .inr (.inr (.inr ⟨rt, rd, hi⟩))
  | writeCause rt rd hi => exact .inr (.inr (.inr ⟨rt, rd, hi⟩))
  | returnFrom hi => exact .inr (.inr (.inl hi))
  | _ => exact .inl ⟨⟨by simp, by simp⟩, by simp, by simp, by simp⟩

/-- Only a load or a move from a coprocessor leaves a load pending: that of its own destination, which is not register 0
(R32, R124). -/
theorem Effect.pending_destination {q : Reg} {w : Word} (hp : t.loadPending = some (q, w)) :
    destination i = some q ∧ q ≠ 0#5 := by
  cases he with
  | load rt v hd | move rt v hd =>
    by_cases h0 : rt = 0#5
    · simp [h0] at hp
    · simp only [State.retireLoad_loadPending, State.retireMove_loadPending, h0, if_false, Option.some.injEq,
        Prod.mk.injEq] at hp
      exact ⟨hp.1 ▸ hd, hp.1 ▸ h0⟩
  | _ => simp at hp

/-- Where execution goes on (R23, R191, R290). -/
theorem Effect.goes_cases :
    (∃ target, s.targetOf i = some target ∧
      (GoesTo s t target true ∨ (isConditional i = true ∧ GoesTo s t (s.npc + 4#32) true))) ∨
    (s.targetOf i = none ∧ GoesTo s t (s.npc + 4#32) false) ∨ ∃ e, t = takeException e s.land := by
  cases he with
  | enter e => exact .inr (.inr ⟨e, rfl⟩)
  | transfer taken target hb hc =>
    exact .inl ⟨target, hb, (s.retireBranch_transfersTo taken target).goes.taken_or_not hc⟩
  | link taken target r v hb hc =>
    exact .inl ⟨target, hb, (s.retireBranch_link_transfersTo taken target r v).goes.taken_or_not hc⟩
  | store _ hs =>
    have hb : s.targetOf i = none := (s.targetOf_eq_none_iff i).mpr (isTransfer_of_isStore hs)
    exact .inr (.inl ⟨hb, by simp, by simp, by simp⟩)
  | writeStatus _ _ hi | writeCause _ _ hi | returnFrom hi =>
    exact .inr (.inl ⟨hi ▸ rfl, by simp, by simp, by simp⟩)
  | register _ _ _ hb | load _ _ _ hb | move _ _ _ hb | hiLo _ _ _ _ hb | fromHi _ _ _ _ hb | fromLo _ _ _ _ hb =>
    exact .inr (.inl ⟨hb, by simp, by simp, by simp⟩)

end

theorem entryWrites_of_eq {e : Exc} {s t : State} (h : t = takeException e s.land) : EntryWrites e s t :=
  h ▸ (takeException_land_enters e s).entry

/-- Settles O39: each way in which the instruction can go (`Effect.goes_cases`). -/
theorem sequencing : Obligations.Sequencing := by
  intro i s t h
  obtain hb | hs | ⟨e, ht⟩ := (exec_effect i h).goes_cases
  · exact .inl hb
  · exact .inr (.inl hs)
  · exact .inr (.inr ⟨e, entryWrites_of_eq ht⟩)

/-- Settles O57: one lemma about `Effect` for each part of the state. -/
theorem onlyNamedStateChanges : Obligations.OnlyNamedStateChanges := by
  intro i s t h
  have he := exec_effect i h
  refine ⟨fun q => he.gprRead_of_ne_destination, he.sameMemory, he.hiLo_eq, ?_, he.sameInputs⟩
  obtain ⟨hs, hepc, hbad, -⟩ | ⟨e, ht⟩ | hi | hi := he.status_cases
  · exact .inl ⟨hs, hepc, hbad⟩
  · exact .inr (.inl ⟨e, entryWrites_of_eq ht⟩)
  · exact .inr (.inr (.inl hi))
  · exact .inr (.inr (.inr hi))

end Sys2Proof.Machine
end

section
/-! One step (R35): under which visibility it is computed (R247), the step of a good fetch, and the end of a step. -/

namespace Sys2Proof.Machine

/-! ### The visibility of MTC0 (R247) -/

/-- A step that sees one SR and one Cause is computed once (R247). -/
theorem step_of_settled {s : State} (h : s.Settled) : step s = stepUnder s := by
  unfold step stepChecked
  split
  · rename_i hv hm
    obtain hn | hn := h
    · rw [hm] at hn; cases hn
    · exact absurd hv hn
  · rfl

/-- Directly after an MTC0 under `MTC_VISIBILITY` unspecified, the step compares two answers (R247). -/
theorem step_of_not_settled {s : State} (h : ¬ s.Settled) : s.cfg.mtcVisibility = .unspecified ∧
    step s = agreeOutcome (stepUnder (s.withVisibility .next)) (stepUnder (s.withVisibility .afterOne)) := by
  obtain ⟨hx, hv⟩ := not_or.mp h
  obtain ⟨x, hx⟩ := Option.ne_none_iff_exists'.mp hx
  rw [not_not] at hv
  exact ⟨hv, by unfold step stepChecked; rw [hv, hx]⟩

/-! ### The fetch, the interrupt and the word (R62, R296) -/

theorem State.fetch_of_admits {s : State} (h : s.FetchAdmits) :
    s.fetch = .word (Memory.readWord s.mem s.cfg.bigEndian (alignWord (biu s.cfg s.pc))) := by
  obtain ⟨ha, hp, hb, hm, hs⟩ := h
  have hal : ¬ (notWordAligned s.pc = true ∨ (s.user = true ∧ s.cfg.userLimit.toNat ≤ s.pc.toNat)) :=
    fun h => h.elim (fun h => by simp [notWordAligned, ha] at h) hp
  have hmap : (spanBytes (alignWord (biu s.cfg s.pc)) 4).all (isMapped s.cfg .fetch) = true := List.all_eq_true.mpr hm
  have hst : ¬ s.stored.contains (alignWord (biu s.cfg s.pc)).toNat = true := by simpa using hs
  simp only [State.fetch, if_neg hal, hb, hmap, if_neg hst, Bool.false_eq_true, Bool.not_true, if_false]

theorem readWord_bytes (m : Memory) (be : Bool) (p : Word) :
    Memory.readWord m be p = if be
      then Memory.read m p.toNat ++ Memory.read m (p + 1#32).toNat ++ Memory.read m (p + 2#32).toNat ++
        Memory.read m (p + 3#32).toNat
      else Memory.read m (p + 3#32).toNat ++ Memory.read m (p + 2#32).toNat ++ Memory.read m (p + 1#32).toNat ++
        Memory.read m p.toNat := by
  simp only [Memory.readWord, physAt_zero]
  rfl

theorem State.interruptNow_of_masked {s : State} (h : s.srView.getLsbD 0 = false ∨
    ((s.pins.irq ++ s.causeView.extractLsb' 8 2 : BitVec 8) &&& s.srView.extractLsb' 8 8) = 0#8) :
    s.interruptNow = false := by
  obtain h | h := h
  · simp only [State.interruptNow, State.interruptsOn, h, Bool.false_and]
  · simp [State.interruptNow, State.pendingLines, h]

/-- A step in which neither reset nor an interrupt comes first and the fetch is good (R35). -/
theorem stepUnder_of_word {s : State} {w : Word} (hr : s.pins.reset = false) (hi : s.interruptNow = false)
    (hw : s.fetch = .word w) : stepUnder s = finishStep (runWord w s) := by
  simp [stepUnder, hr, hi, hw]

theorem State.endStep_eq (s : State) : s.endStep = { s with
    cpcPrev := s.endStep.cpcPrev, freeTick := s.endStep.freeTick,
    pins := s.endStep.pins, nextPins := s.endStep.nextPins } := by
  unfold State.endStep State.nextSample
  split <;> rfl

theorem State.endStep_pins_last {s : State} (h : s.nextPins = []) :
    s.endStep.pins = s.pins ∧ s.endStep.nextPins = [] := by
  simp [State.endStep, State.nextSample, h]

theorem State.endStep_pins_next {s : State} {p : Pins} {ps : List Pins} (h : s.nextPins = p :: ps) :
    s.endStep.pins = p ∧ s.endStep.nextPins = ps := by
  simp [State.endStep, State.nextSample, h]

/-- Settles O51: the step is `finishStep` of the word's run, and `endStep` changes the inputs alone. -/
theorem stepRunsDecodedInstruction : Obligations.StepRunsDecodedInstruction := by
  rintro s w p hs hr hi hf rfl hw
  have hfetch : s.fetch = .word w := by rw [State.fetch_of_admits hf, readWord_bytes, hw]; rfl
  have hstep : step s = finishStep (runWord w s) := by
    rw [step_of_settled hs, stepUnder_of_word hr (State.interruptNow_of_masked hi) hfetch]
  refine ⟨fun i hd => by simp only [runWord, hd], fun t ht => ?_, fun f hf => by rw [hstep, hf]; rfl,
    fun r hr => by rw [hstep, hr]; rfl⟩
  exact ⟨t.endStep, by rw [hstep, ht]; rfl, by simp, by simp, t.endStep_eq, State.endStep_pins_last,
    fun _ _ => State.endStep_pins_next⟩

end Sys2Proof.Machine
end

section
/-! The mode, SR.KUc, through a step (R28): exception entry and reset leave kernel mode, and of the instructions only
MTC0 and RFE change SR at all. -/

namespace Sys2Proof.Machine

theorem State.user_of_noShadow {s : State} (h : s.mtcShadow = none) : s.user = s.sr.getLsbD 1 := by
  rw [State.user, State.srView_of_noShadow h]

@[simp] theorem State.endStep_user (s : State) : s.endStep.user = s.user := by simp [State.user, State.srView]

@[simp] theorem State.nextSample_user (s : State) : s.nextSample.user = s.user := by simp [State.user, State.srView]

/-- The pushed KU/IE stack has KUc = 0 (R290 step 3). -/
theorem pushStatus_kuc (sr view : Word) : (pushStatus sr view).getLsbD 1 = false := by
  unfold pushStatus; grind

theorem resetStatus_kuc (u : Word) : (resetStatus u).getLsbD 1 = false := by
  unfold resetStatus; grind

theorem takeException_user (e : Exc) (s : State) : (takeException e s).user = false := by
  rw [State.user_of_noShadow (by simp), State.takeException_sr, pushStatus_kuc]

theorem State.applyReset_user (s : State) : s.applyReset.user = false := by
  rw [State.user_of_noShadow (by simp), State.applyReset_sr, resetStatus_kuc]

/-- An instruction that takes kernel mode to user mode is RFE or MTC0. -/
theorem Effect.enters_user {i : Instr} {s t : State} (he : Effect i s t) (hs : s.mtcShadow = none)
    (hk : s.user = false) (hu : t.user = true) : i = .rfe ∨ ∃ rt rd, i = .mtc0 rt rd := by
  obtain ⟨hst, -, -, ht⟩ | ⟨e, rfl⟩ | hi := he.status_cases
  · rw [State.user_of_noShadow ht, hst.sr, ← State.user_of_noShadow hs, hk] at hu
    cases hu
  · rw [takeException_user] at hu
    cases hu
  · exact hi

/-- Settles O58: reset and every exception entry end in kernel mode, and so does every instruction but the two. -/
theorem onlyMtc0AndRfeEnterUserMode : Obligations.OnlyMtc0AndRfeEnterUserMode := by
  intro s t hs hk hst hu
  rw [step_of_settled (.inl hs)] at hst
  obtain ⟨-, rfl⟩ | ⟨-, e, rfl⟩ | ⟨-, -, w, u, hw, hr, rfl⟩ := stepUnder_cases hst
  · simp [State.applyReset_user] at hu
  · simp [preempt, takeException_user] at hu
  · rw [State.endStep_user] at hu
    obtain ⟨i, hd, he⟩ | ⟨e, rfl⟩ := runWord_effect hr
    · exact ⟨w, i, hw, hd, he.enters_user hs hk hu⟩
    · simp [takeException_user] at hu

end Sys2Proof.Machine
end

section
/-! The state after reset and the reset input (R37, R330, R331). -/

namespace Sys2Proof.Machine

/-! ### The state after reset (R37, R330) -/

/-- Settles O53: field by field. -/
theorem resetState : Obligations.ResetState :=
  ⟨rfl, rfl, rfl, rfl, rfl, rfl, rfl, rfl, State.gprRead_zero _, by decide, by decide, by decide, rfl⟩

/-- Settles O55: memory and the marks are empty, nothing is pending, and every register holds 0. -/
theorem resetMeetsInvariant : Obligations.ResetMeetsInvariant where
  memory := State.reset_memory_wf
  storedWords := rfl
  registerZero := by decide
  pendingNotZero _ _ h := nomatch h
  sequential _ := by decide
  cause := show _ &&& _ = _ by decide
  causeShadow _ h := nomatch h

/-! ### The reset input (R331) -/

theorem stepUnder_of_reset {s : State} (h : s.pins.reset = true) : stepUnder s = .next s.applyReset.nextSample := by
  rw [stepUnder, if_pos h]

theorem State.withVisibility_self {s : State} {v : MtcVisibility} (h : s.cfg.mtcVisibility = v) :
    s.withVisibility v = s := by
  subst h; rfl

theorem State.withVisibility_withVisibility (s : State) (v w : MtcVisibility) :
    (s.withVisibility v).withVisibility w = s.withVisibility w := rfl

theorem State.applyReset_withVisibility (s : State) (v : MtcVisibility) :
    (s.withVisibility v).applyReset = s.applyReset.withVisibility v := rfl

theorem State.nextSample_withVisibility (s : State) (v : MtcVisibility) :
    (s.withVisibility v).nextSample = s.nextSample.withVisibility v := by
  simp only [State.nextSample, State.withVisibility_nextPins]
  split <;> rfl

/-- The reset input acts in the step after an MTC0 too, where both answers agree. -/
theorem step_of_reset {s : State} (h : s.pins.reset = true) : step s = .next s.applyReset.nextSample := by
  have hu (v : MtcVisibility) :
      stepUnder (s.withVisibility v) = .next (s.applyReset.nextSample.withVisibility v) :=
    (stepUnder_of_reset (s := s.withVisibility v) h).trans
      (by rw [State.applyReset_withVisibility, State.nextSample_withVisibility])
  by_cases hs : s.Settled
  · rw [step_of_settled hs, stepUnder_of_reset h]
  · obtain ⟨hv, hst⟩ := step_of_not_settled hs
    have hsame : s.applyReset.nextSample.withVisibility .unspecified = s.applyReset.nextSample :=
      State.withVisibility_self (by simpa using hv)
    rw [hst, hu, hu, agreeOutcome]
    simp only [State.withVisibility_withVisibility, if_true, hsame]

theorem State.applyReset_gprRead (s : State) {q : Reg} (hq : q ≠ 0#5) :
    s.applyReset.gprRead q = s.free (slotReset + q.toNat) := by
  have h0 : q.toNat ≠ 0 := fun h => hq (BitVec.eq_of_toNat_eq h)
  rw [State.gprRead, if_neg hq]
  simp only [State.applyReset, Vector.getElem_ofFn, if_neg h0]

theorem State.applyReset_cpr (s : State) {k : Nat} (hk : k < 128) :
    s.applyReset.cpr[k]? = some (s.free (slotReset + 38 + k)) := by
  simp [State.applyReset, hk]

theorem resetStatus_ie (u : Word) : (resetStatus u).getLsbD 0 = false := by unfold resetStatus; grind
theorem resetStatus_bev (u : Word) : (resetStatus u).getLsbD 22 = true := by unfold resetStatus; grind

/-- The bits of SR that R37 does not give are free. -/
theorem resetStatus_other (u : Word) {k : Nat} (h2 : 2 ≤ k) (h22 : k ≠ 22) :
    (resetStatus u).getLsbD k = u.getLsbD k := by
  have masks : ∀ k < 32, 2 ≤ k → k ≠ 22 →
      (0xFFFFFFFC#32).getLsbD k = true ∧ (0x00400000#32).getLsbD k = false := by decide
  by_cases hk : k < 32
  · obtain ⟨hand, hor⟩ := masks k hk h2 h22
    simp [resetStatus, BitVec.getLsbD_or, BitVec.getLsbD_and, hand, hor]
  · rw [BitVec.getLsbD_of_ge _ _ (by omega), BitVec.getLsbD_of_ge _ _ (by omega)]

theorem State.applyReset_interruptsOn (s : State) : s.applyReset.interruptsOn = false := by
  rw [State.interruptsOn, State.srView_of_noShadow (by simp), State.applyReset_sr, resetStatus_ie]

@[simp] theorem State.nextSample_interruptsOn (s : State) : s.nextSample.interruptsOn = s.interruptsOn := by
  simp [State.interruptsOn, State.srView]

@[simp] theorem State.nextSample_gprRead (s : State) (q : Reg) : s.nextSample.gprRead q = s.gprRead q :=
  State.gprRead_congr (by simp) q

/-- Settles O54: what reset gives by the fields of `applyReset`, and the free values draw by draw. -/
theorem resetInput : Obligations.ResetInput := by
  intro s h
  refine ⟨_, step_of_reset h, by simp, by simp, by simp, by simp, by simp, by simp, by simp, by simp, by simp,
    by simp, by simp [State.applyReset_user], by simp [State.applyReset_interruptsOn], by simp [resetStatus_bev],
    State.gprRead_zero _, by simp, by simp, fun q hq => ?_, ?_, ?_, fun k h2 h22 => ?_, ?_, ?_, ?_, ?_,
    fun k hk => ?_⟩
  · rw [State.nextSample_gprRead, State.applyReset_gprRead s hq]; rfl
  · rw [State.nextSample_hi, State.applyReset_hi]; rfl
  · rw [State.nextSample_lo, State.applyReset_lo]; rfl
  · rw [State.nextSample_sr, State.applyReset_sr, resetStatus_other _ h2 h22]; rfl
  · rw [State.nextSample_cause, State.applyReset_cause]; rfl
  · rw [State.nextSample_epc, State.applyReset_epc]; rfl
  · rw [State.nextSample_badVAddr, State.applyReset_badVAddr]; rfl
  · rw [State.nextSample_cpcPrev, State.applyReset_cpcPrev]; rfl
  · rw [State.nextSample_cpr, State.applyReset_cpr s hk]; rfl

end Sys2Proof.Machine
end

section
/-! Register reads and the load delay over two instructions (R21, R32, R341). -/

namespace Sys2Proof.Machine

/-! ### Register reads (R21, R32, R341) -/

theorem State.regRead_zero (s : State) (k : Nat) : s.regRead k 0#5 = 0#32 := by simp [State.regRead]

theorem State.regRead_pending {s : State} {q : Reg} {v : Word} (hq : q ≠ 0#5) (h : s.loadPending = some (q, v))
    (k : Nat) : s.regRead k q = s.free k := by
  rw [State.regRead_cases, if_neg hq, if_pos ((s.isPending_iff q).mpr ⟨v, h⟩)]

theorem State.regRead_notPending {s : State} {q : Reg} (h : ∀ v, s.loadPending ≠ some (q, v)) (k : Nat) :
    s.regRead k q = s.gprRead q := by
  have hp : ¬ s.isPending q = true := fun hp => by
    obtain ⟨v, hv⟩ := (s.isPending_iff q).mp hp
    exact h v hv
  rw [State.regRead_cases, if_neg hp]
  split
  · rename_i hq; rw [hq, State.gprRead_zero]
  · rfl

theorem State.settled_pending {s : State} {q : Reg} {v : Word} (hq : q ≠ 0#5) (h : s.loadPending = some (q, v)) :
    s.settled q = v := by
  simp [State.settled, State.mergeOperand, hq, h]

theorem State.settled_notPending {s : State} {q : Reg} (h : ∀ v, s.loadPending ≠ some (q, v)) :
    s.settled q = s.gprRead q := by
  unfold State.settled State.mergeOperand
  split
  · rename_i hq; rw [hq, State.gprRead_zero]
  · split
    · rename_i p v hp
      exact if_neg fun (hpq : p = q) => h v (hpq ▸ hp)
    · rfl

/-- Settles O10: reads by the three cases of a register, writes by `gprRead_setReg`. -/
theorem loadDelayAndRegisterZero : Obligations.LoadDelayAndRegisterZero := by
  intro s q
  refine ⟨⟨s.regRead_zero _, s.regRead_zero _, s.setReg_zero⟩, fun hq v hv => ?_, fun hq => ?_, fun hq v => ?_,
    fun r v hr => ?_⟩
  · exact ⟨s.regRead_pending hq hv _, s.regRead_pending hq hv _, s.settled_pending hq hv⟩
  · exact ⟨s.regRead_notPending hq _, s.regRead_notPending hq _, s.settled_notPending hq⟩
  · rw [State.gprRead_setReg, if_neg hq, if_pos rfl]
  · rw [State.gprRead_setReg, if_neg hr.symm]
    split
    · rename_i hq; rw [hq, State.gprRead_zero]
    · rfl

/-! ### The pending value alone (R32) -/

/-- The state with v pending for r. -/
def State.repend (s : State) (r : Reg) (v : Word) : State := { s with loadPending := some (r, v) }

section
variable {r : Reg} {v w : Word} {s : State} (h : s.loadPending = some (r, v))

theorem State.repend_cfg : (s.repend r w).cfg = s.cfg := rfl

include h

/-- No register read depends on the pending value: one of the pending register is a free value (R341). -/
theorem State.regRead_repend (k : Nat) (q : Reg) : (s.repend r w).regRead k q = s.regRead k q := by
  have hp : (s.repend r w).isPending q = s.isPending q := by simp [State.isPending, State.repend, h]
  rw [State.regRead_cases, State.regRead_cases, hp]
  rfl

theorem State.readRs_repend (q : Reg) : (s.repend r w).readRs q = s.readRs q := State.regRead_repend h _ q
theorem State.readRt_repend (q : Reg) : (s.repend r w).readRt q = s.readRt q := State.regRead_repend h _ q

theorem State.dataAddr_repend (b : Reg) (o : Imm) : (s.repend r w).dataAddr b o = s.dataAddr b o := by
  rw [State.dataAddr, State.readRs_repend h, State.dataAddr]

theorem State.dataPhys_repend (b : Reg) (o : Imm) : (s.repend r w).dataPhys b o = s.dataPhys b o := by
  rw [State.dataPhys, State.dataAddr_repend h, State.dataPhys, State.repend_cfg]

end

/-! ### Instructions that write the pending register -/

/-- From s to t, what f leaves in r does not depend on the value pending for r, unless t is an exception of f. -/
def Overwrites (r : Reg) (f : State → Result) (s t : State) : Prop :=
  (∃ e, Enters e s t) ∨ ∀ w, ∃ u, f (s.repend r w) = .next u ∧ u.gprRead r = t.gprRead r

theorem State.gprRead_retireReg_self (s : State) (r : Reg) (v : Word) :
    (s.retireReg r v).gprRead r = if r = 0#5 then 0#32 else v := by
  rw [(s.retireReg_computesInto r v).result]
  simp

/-- Where f completes with g, and g leaves the same in r whatever is pending for r. -/
theorem overwrites_next {r : Reg} {g : State → State} {s t : State}
    (hg : ∀ w, (g (s.repend r w)).gprRead r = (g s).gprRead r) (ht : .next (g s) = (.next t : Result)) :
    Overwrites r (fun s => .next (g s)) s t := by
  cases ht
  exact .inr fun w => ⟨_, rfl, hg w⟩

/-- A test that does not depend on the pending value decides between two ways to go on. -/
theorem overwrites_ite {r : Reg} {c : State → Prop} [DecidablePred c] {f g : State → Result} {s t : State}
    (hc : ∀ w, c (s.repend r w) ↔ c s) (hf : f s = .next t → Overwrites r f s t)
    (hg : g s = .next t → Overwrites r g s t) (ht : (if c s then f s else g s) = .next t) :
    Overwrites r (fun s => if c s then f s else g s) s t := by
  by_cases hs : c s
  · rw [if_pos hs] at ht
    simpa only [Overwrites, hc, hs, if_true] using hf ht
  · rw [if_neg hs] at ht
    simpa only [Overwrites, hc, hs, if_false] using hg ht

theorem overwrites_raise {r : Reg} {e : Exc} {s t : State} (ht : raise e s = .next t) :
    Overwrites r (raise e) s t := by
  cases ht
  exact .inl ⟨e, takeException_land_enters e s⟩

section
variable {r : Reg} {s t : State}

/-- A computation whose operands do not depend on the pending value. -/
theorem overwrites_retireReg {f : State → Word} (hf : ∀ w, f (s.repend r w) = f s)
    (ht : .next (s.retireReg r (f s)) = (.next t : Result)) :
    Overwrites r (fun s => .next (s.retireReg r (f s))) s t :=
  overwrites_next (g := fun s => s.retireReg r (f s))
    (fun w => by rw [State.gprRead_retireReg_self, State.gprRead_retireReg_self, hf]) ht

theorem overwrites_overflowOr {o : State → Bool} {f : State → Word} (ho : ∀ w, o (s.repend r w) = o s)
    (hf : ∀ w, f (s.repend r w) = f s) (ht : overflowOr (o s) r (f s) s = .next t) :
    Overwrites r (fun s => overflowOr (o s) r (f s) s) s t :=
  overwrites_ite (fun w => by rw [ho]) overwrites_raise (overwrites_retireReg hf) ht

/-- The older load of its own register does not land, so a load leaves the register as it was (R124). -/
theorem State.gprRead_retireLoad_self (s : State) (r : Reg) (v : Word) :
    (s.retireLoad r v).gprRead r = s.gprRead r := by
  rw [(s.retireLoad_deliversTo r v).others, if_pos rfl]

theorem State.gprRead_retireMove_self (s : State) (r : Reg) (v : Word) :
    (s.retireMove r v).gprRead r = s.gprRead r := by
  rw [(s.retireMove_deliversTo r v).others, if_pos rfl]

theorem overwrites_loadAccess {m : State → Bool} {a : State → Word} {l : State → List Nat} {f : State → Word}
    (hm : ∀ w, m (s.repend r w) = m s) (ha : ∀ w, a (s.repend r w) = a s) (hl : ∀ w, l (s.repend r w) = l s)
    (ht : loadAccess (m s) (a s) (l s) r (f s) s = .next t) :
    Overwrites r (fun s => loadAccess (m s) (a s) (l s) r (f s) s) s t := by
  obtain ⟨hs, rfl⟩ | rfl | rfl := loadAccess_cases ht
  · refine .inr fun w => ⟨_, loadAccess_admitted r _ ?_, ?_⟩
    · rw [hm, ha, hl]; exact ⟨hs.aligned, hs.permitted, hs.answered, hs.mapped⟩
    · rw [State.gprRead_retireLoad_self, State.gprRead_retireLoad_self]; rfl
  · exact .inl ⟨_, takeException_land_enters _ s⟩
  · exact .inl ⟨_, takeException_land_enters _ s⟩

end

theorem overwrites_refused {r : Reg} {f : State → Result} {q : Refusal} {s t : State}
    (ht : .refused q = (.next t : Result)) : Overwrites r f s t := nomatch ht

/-- A jump or branch that links. -/
theorem overwrites_link {r : Reg} {c : State → Bool} {a f : State → Word} {s t : State}
    (hf : ∀ w, f (s.repend r w) = f s)
    (ht : .next ((s.retireBranch (c s) (a s)).setReg r (f s)) = (.next t : Result)) :
    Overwrites r (fun s => .next ((s.retireBranch (c s) (a s)).setReg r (f s))) s t :=
  overwrites_next (g := fun s => (s.retireBranch (c s) (a s)).setReg r (f s))
    (fun w => by rw [State.gprRead_setReg, State.gprRead_setReg, if_pos rfl, if_pos rfl, hf]) ht

theorem overwrites_branchLinkIf {rs : Reg} {c : State → Bool} {o : Imm} {s t : State}
    (ht : branchLinkIf rs (c s) o s = .next t) : Overwrites 31#5 (fun s => branchLinkIf rs (c s) o s) s t :=
  overwrites_ite (fun _ => Iff.rfl) overwrites_refused
    (fun h => overwrites_ite (fun _ => Iff.rfl) overwrites_refused
      (fun h => overwrites_link (fun _ => rfl) h) h) ht

theorem overwrites_execJal {target : BitVec 26} {s t : State} (ht : execJal target s = .next t) :
    Overwrites 31#5 (execJal target) s t :=
  overwrites_ite (fun _ => Iff.rfl) overwrites_refused
    (fun h => overwrites_link (c := fun _ => true) (fun _ => rfl) h) ht

theorem overwrites_execJalr {rs rd : Reg} {s t : State} (ht : execJalr rs rd s = .next t) :
    Overwrites rd (execJalr rs rd) s t :=
  overwrites_ite (fun _ => Iff.rfl) overwrites_refused
    (fun h => overwrites_ite (fun _ => Iff.rfl) overwrites_refused
      (fun h => overwrites_link (c := fun _ => true) (fun _ => rfl) h) h) ht

theorem overwrites_execMfc0 {rt : Reg} {rd : CopReg} {s t : State} (ht : execMfc0 rt rd s = .next t) :
    Overwrites rt (execMfc0 rt rd) s t :=
  overwrites_ite (fun _ => Iff.rfl) overwrites_raise
    (overwrites_next (g := fun s => s.retireMove rt (s.cp0Read rd))
      fun w => by rw [State.gprRead_retireMove_self, State.gprRead_retireMove_self]; rfl) ht

theorem overwrites_copUndefined {r : Reg} {z : CopUnit} {s t : State} (ht : copUndefined z s = .next t) :
    Overwrites r (copUndefined z) s t :=
  overwrites_ite (fun _ => Iff.rfl) overwrites_raise overwrites_refused ht

theorem overwrites_execMfhi {rd : Reg} {s t : State} (ht : execMfhi rd s = .next t) :
    Overwrites rd (execMfhi rd) s t :=
  overwrites_next
    (fun _ => (State.gprRead_retireReg_self _ rd s.hi).trans (State.gprRead_retireReg_self s rd s.hi).symm) ht

theorem overwrites_execMflo {rd : Reg} {s t : State} (ht : execMflo rd s = .next t) :
    Overwrites rd (execMflo rd) s t :=
  overwrites_next
    (fun _ => (State.gprRead_retireReg_self _ rd s.lo).trans (State.gprRead_retireReg_self s rd s.lo).symm) ht

/-- What an instruction leaves in its destination does not depend on a value that was pending for it, unless the
instruction is cut off by its exception (R32). -/
theorem exec_overwrites {j : Instr} {r : Reg} {v : Word} {s t : State} (hp : s.loadPending = some (r, v))
    (hd : destination j = some r) (h : exec j s = .next t) : Overwrites r (exec j) s t := by
  cases j
  case add | addi | sub =>
    cases hd
    exact overwrites_overflowOr (fun w => by simp only [State.readRs_repend hp, State.readRt_repend hp])
      (fun w => by simp only [State.readRs_repend hp, State.readRt_repend hp]) h
  case lb | lbu | lh | lhu | lw | lwl | lwr =>
    cases hd
    exact overwrites_loadAccess (fun w => by simp only [State.dataAddr_repend hp])
      (fun w => by simp only [State.dataAddr_repend hp])
      (fun w => by simp only [State.dataAddr_repend hp, State.dataPhys_repend hp, State.repend_cfg]) h
  case bltzal | bgezal => cases hd; exact overwrites_branchLinkIf h
  case jal => cases hd; exact overwrites_execJal h
  case jalr => cases hd; exact overwrites_execJalr h
  case mfc0 => cases hd; exact overwrites_execMfc0 h
  case mfc1 | mfc2 | mfc3 => exact overwrites_copUndefined h
  case mfhi => cases hd; exact overwrites_execMfhi h
  case mflo => cases hd; exact overwrites_execMflo h
  all_goals cases hd
  all_goals exact overwrites_retireReg (fun w => by simp only [State.readRs_repend hp, State.readRt_repend hp]) h

/-- Settles O11: the destination by `exec_overwrites`, every other register and the pending load by `Effect`. -/
theorem loadLandsAfterNextInstruction : Obligations.LoadLandsAfterNextInstruction := by
  intro i j s t u x r v _ _ hi hp hj
  obtain ⟨-, hr⟩ := (exec_effect i hi).pending_destination hp
  have he := exec_effect j hj
  refine ⟨fun hd => ?_, fun hd => ?_, fun q w hq => (he.pending_destination hq).1, ?_⟩
  · rw [he.gprRead_of_ne_destination hd, State.settled_pending hr hp]
  · obtain ⟨e, hent⟩ | hw := exec_overwrites hp hd hj
    · exact .inl ⟨⟨e, hent⟩, by rw [hent.registers, State.settled_pending hr hp]⟩
    · exact .inr hw
  · rintro rs rd imm rfl
    cases hj
    have hc := t.retireReg_computesInto rd (t.readRs rs + signExtendImm imm)
    refine ⟨hc.noPending, ?_⟩
    rintro rfl
    rw [hc.result, if_neg hr, if_pos rfl]
    rfl

end Sys2Proof.Machine
end

section
/-! The windows of MFHI and MFLO, in which HI and LO may not be written (R33, R344). -/

namespace Sys2Proof.Machine

@[simp] theorem ageMf_none : ageMf none = none := rfl
@[simp] theorem ageMf_first (rd : Reg) : ageMf (some { age := 0, rd := rd }) = some { age := 1, rd := rd } := rfl
@[simp] theorem ageMf_second (rd : Reg) : ageMf (some { age := 1, rd := rd }) = none := rfl

theorem writeDouble_refused {s : State} (h : s.mfHi ≠ none ∨ s.mfLo ≠ none) (hilo : Word × Word) :
    writeDouble hilo s = .refused .hiLoWriteTooSoon := by
  have hr : s.recentMf = true := by simpa [State.recentMf, Option.isSome_iff_ne_none] using h
  rw [writeDouble, if_pos hr]

theorem writeDouble_next {s : State} (hhi : s.mfHi = none) (hlo : s.mfLo = none) (hilo : Word × Word) :
    writeDouble hilo s = .next { s.retireSeq with hi := hilo.1, lo := hilo.2, mdFresh := true } := by
  have hr : ¬ s.recentMf = true := by simp [State.recentMf, hhi, hlo]
  rw [writeDouble, if_neg hr]

theorem exec_mult_refused {s : State} (h : s.mfHi ≠ none ∨ s.mfLo ≠ none) (rs rt : Reg) :
    exec (.mult rs rt) s = .refused .hiLoWriteTooSoon := writeDouble_refused h _

theorem exec_mult_next {s : State} (hhi : s.mfHi = none) (hlo : s.mfLo = none) (rs rt : Reg) :
    ∃ t, exec (.mult rs rt) s = .next t := ⟨_, writeDouble_next hhi hlo _⟩

theorem execMthi_refused {s : State} (h : s.mfHi ≠ none) (rs : Reg) :
    execMthi rs s = .refused .hiLoWriteTooSoon := by
  rw [execMthi, if_pos (Option.isSome_iff_ne_none.mpr h)]

theorem execMtlo_refused {s : State} (h : s.mfLo ≠ none) (rs : Reg) :
    execMtlo rs s = .refused .hiLoWriteTooSoon := by
  rw [execMtlo, if_pos (Option.isSome_iff_ne_none.mpr h)]

/-- MFHI opens its window and ages that of MFLO (R33). -/
theorem exec_mfhi_window (rd : Reg) (s : State) :
    ∃ t, exec (.mfhi rd) s = .next t ∧ t.mfHi = some { age := 0, rd := rd } ∧ t.mfLo = ageMf s.mfLo :=
  ⟨_, rfl, rfl, by simp⟩

theorem exec_addiu_aged (rs rt : Reg) (imm : Imm) (s : State) :
    ∃ t, exec (.addiu rs rt imm) s = .next t ∧ Aged s t :=
  ⟨_, rfl, (s.retireReg_computesInto _ _).aged⟩

theorem exec_ori_aged (rs rt : Reg) (imm : Imm) (s : State) :
    ∃ t, exec (.ori rs rt imm) s = .next t ∧ Aged s t :=
  ⟨_, rfl, (s.retireReg_computesInto _ _).aged⟩

/-- Settles O22: the refusals one by one, and the window by the age of MFHI's record. -/
theorem hiLoWrittenTooSoonRefused : Obligations.HiLoWrittenTooSoonRefused := by
  refine ⟨fun s rs rt => ⟨fun h => ?_, fun h => execMthi_refused h rs, fun h => execMtlo_refused h rs⟩, ?_⟩
  · exact ⟨writeDouble_refused h _, writeDouble_refused h _, writeDouble_refused h _, writeDouble_refused h _⟩
  · intro s rd rs rt r q i j hlo
    obtain ⟨a, ha, hai, hal⟩ := exec_mfhi_window rd s
    obtain ⟨b, hb, hbi, hbl⟩ := exec_addiu_aged r q i a
    obtain ⟨c, hc, hci, hcl⟩ := exec_ori_aged r q j b
    rw [hai, ageMf_first] at hbi
    rw [hbi, ageMf_second] at hci
    rw [hbl, hal, hlo, ageMf_none, ageMf_none, ageMf_none] at hcl
    obtain ⟨t, ht⟩ := exec_mult_next hci hcl rs rt
    exact ⟨a, b, c, t, ha, hb, hc, exec_mult_refused (.inl (by simp [hai])) rs rt,
      exec_mult_refused (.inl (by simp [hbi])) rs rt, ht⟩

end Sys2Proof.Machine
end

section
/-! Memory and its bytes (R56 to R59), and the mapping of addresses (R53). -/

namespace Sys2Proof.Machine

/-! ### One byte (R56, R67) -/

/-- Settles O7: a write keeps the canonical form, in which the contents fix the list. -/
theorem memoryReadAfterWrite : Obligations.MemoryReadAfterWrite :=
  ⟨fun _ p v hm hp => ⟨Memory.write_wf hp v hm, Memory.read_write hm p v⟩, fun _ _ => Memory.eq_of_read_eq⟩

/-! ### The bytes of a word (R56, R58, R59) -/

theorem byteOf_append_word (v : Word) : byteOf v 3 ++ byteOf v 2 ++ byteOf v 1 ++ byteOf v 0 = v := by
  unfold byteOf; ext i hi; grind

theorem byteOf_append_half (v : Word) : byteOf v 1 ++ byteOf v 0 = v.extractLsb' 0 16 := by
  unfold byteOf; ext i hi; grind

section
variable {s : State} (hm : Memory.wf s.mem = true) (be : Bool) (p v : Word)
include hm

/-- Byte i of a field of n bytes reads as stored (R59). -/
theorem State.read_storeBytes_span {n i : Nat} (hn : n ≤ 4) (hi : i < n) :
    Memory.read (s.storeBytes (spanCells be p n v)).mem (physAt p i) = byteOf v (if be then n - 1 - i else i) :=
  State.storeBytes_read_same hm (spanCells_inSpace be p n v)
    (by rw [spanCells_addresses]; exact spanBytes_nodup p hn)
    (List.mem_map.mpr ⟨i, List.mem_range.mpr hi, rfl⟩)

theorem State.readWord_storeBytes_span :
    Memory.readWord (s.storeBytes (spanCells be p 4 v)).mem be p = v := by
  have hb {i : Nat} (hi : i < 4) := State.read_storeBytes_span hm be p v (Nat.le_refl 4) hi
  rw [Memory.readWord, hb (by decide), hb (by decide), hb (by decide), hb (by decide)]
  cases be <;> exact byteOf_append_word v

theorem State.readHalf_storeBytes_span :
    Memory.readHalf (s.storeBytes (spanCells be p 2 v)).mem be p = v.extractLsb' 0 16 := by
  have hb {i : Nat} (hi : i < 2) := State.read_storeBytes_span hm be p v (n := 2) (by decide) hi
  rw [Memory.readHalf, hb (by decide), hb (by decide)]
  cases be <;> exact byteOf_append_half v

theorem State.readByte_storeBytes_span :
    Memory.read (s.storeBytes (spanCells be p 1 v)).mem (physAt p 0) = v.extractLsb' 0 8 := by
  rw [State.read_storeBytes_span hm be p v (by decide) (by decide)]
  cases be <;> rfl

end

/-- Settles O8: each width is made of bytes that read as stored. -/
theorem storedValueReadsBack : Obligations.StoredValueReadsBack := by
  intro s be p v hm
  refine ⟨State.readWord_storeBytes_span hm be p v, State.readHalf_storeBytes_span hm be p v, ?_, fun i => ?_⟩
  · rw [← physAt_zero]
    exact State.readByte_storeBytes_span hm be p v
  · have hi : 8 * (3 - i.val) = 24 - 8 * i.val := by omega
    refine (State.read_storeBytes_span hm be p v (Nat.le_refl 4) i.isLt).trans ?_
    cases be
    · rfl
    · exact congrArg (v.extractLsb' · 8) hi

/-! ### The segments (R53) -/

theorem biu_default_kseg0 {addr : Word} (h : 0x80000000 ≤ addr.toNat) (h' : addr.toNat < 0xA0000000) :
    biu Config.default addr = addr - 0x80000000#32 :=
  if_pos ⟨h, h'⟩

theorem biu_default_kseg1 {addr : Word} (h : 0xA0000000 ≤ addr.toNat) (h' : addr.toNat < 0xC0000000) :
    biu Config.default addr = addr - 0xA0000000#32 :=
  (if_neg fun hc : _ ∧ addr.toNat < 0xA0000000 => Nat.not_lt.mpr h hc.2).trans (if_pos ⟨h, h'⟩)

theorem biu_default_elsewhere {addr : Word} (h : addr.toNat < 0x80000000 ∨ 0xC0000000 ≤ addr.toNat) :
    biu Config.default addr = addr :=
  (if_neg fun hc : 0x80000000 ≤ addr.toNat ∧ addr.toNat < 0xA0000000 => by omega).trans
    (if_neg fun hc : 0xA0000000 ≤ addr.toNat ∧ addr.toNat < 0xC0000000 => by omega)

/-- Settles O9: the three segments, and the names that kseg0 and kseg1 give to low memory. -/
theorem segmentsMapToLowMemory : Obligations.SegmentsMapToLowMemory := by
  refine fun addr => ⟨biu_default_kseg0, biu_default_kseg1, biu_default_elsewhere, fun h => ⟨?_, ?_⟩⟩
  · have hn : (0x80000000#32 + addr).toNat = 0x80000000 + addr.toNat := by bv_omega
    rw [biu_default_kseg0 (by omega) (by omega), add_sub_cancel_left]
  · have hn : (0xA0000000#32 + addr).toNat = 0xA0000000 + addr.toNat := by bv_omega
    rw [biu_default_kseg1 (by omega) (by omega), add_sub_cancel_left]

end Sys2Proof.Machine
end

section
/-! The checks of a load or store (R110): what their outcome makes of the instruction, and of which bytes. -/

namespace Sys2Proof.Machine

/-! ### What the outcome of the checks makes of the instruction -/

/-- What a load or store answers by the outcome of its checks: `t` is the state in which one that is made ends. -/
def Probe.answer (s t : State) : Probe → Result
  | .ok => .next t
  | .raise e => Machine.raise e s
  | .fault f => .fault f

theorem loadAccess_eq_answer (m : Bool) (addr : Word) (bytes : List Nat) (rt : Reg) (v : Word) (s : State) :
    loadAccess m addr bytes rt v s = (s.probe .load m addr bytes).answer s (s.retireLoad rt v) := by
  unfold loadAccess
  cases s.probe .load m addr bytes <;> rfl

theorem storeAccess_eq_answer (m : Bool) (addr : Word) {bytes : List Nat} {cells : List Host.Cell}
    (hb : cells.map Prod.fst = bytes) (s : State) :
    storeAccess m addr cells s = (s.probe .store m addr bytes).answer s (s.storeBytes cells).retireMem := by
  subst hb
  unfold storeAccess
  cases s.probe .store m addr (cells.map Prod.fst) <;> rfl

section
variable {i : Instr} {s : State} {x : Access} (hx : s.accessOf i = some x)
include hx

/-- Every load and store answers by the checks of its own access (R110). -/
theorem exec_of_accessOf : ∃ t, exec i s = (s.probe x.kind x.misaligned x.addr x.bytes).answer s t := by
  cases i <;> cases hx
  case lb | lbu | lh | lhu | lw | lwl | lwr => exact ⟨_, loadAccess_eq_answer ..⟩
  case sb | sh | sw => exact ⟨_, storeAccess_eq_answer _ _ (spanCells_addresses ..) s⟩
  case swl | swr => exact ⟨_, storeAccess_eq_answer _ _ (laneCells_addresses ..) s⟩

theorem exec_of_addressError (h : x.misaligned = true ∨ s.beyondLimit x.addr) :
    exec i s = raise (addressError x.kind x.addr) s := by
  obtain ⟨t, ht⟩ := exec_of_accessOf hx
  rw [ht, State.probe_addressError h, Probe.answer]

theorem exec_of_busError (ha : x.misaligned = false) (hp : ¬ s.beyondLimit x.addr)
    (hb : isBusError s.cfg x.kind (biu s.cfg x.addr) = true) : exec i s = raise .dbe s := by
  obtain ⟨t, ht⟩ := exec_of_accessOf hx
  rw [ht, ha, State.probe_busError hp hb, Probe.answer]

end

/-- Settles O28: the first check fails. -/
theorem dataAddressErrors : Obligations.DataAddressErrors := by
  intro s i x hx h
  rw [exec_of_addressError hx h]
  exact raise_enters _ s

/-- Settles O29: the second check fails. -/
theorem dataBusErrors : Obligations.DataBusErrors := by
  intro s i x hx ha hp hb
  rw [exec_of_busError hx ha hp hb]
  exact raise_enters _ s

/-- Settles O30: the last check fails. -/
theorem unmappedAccessFaults : Obligations.UnmappedAccessFaults := by
  intro s i x hx ha hp hb hm
  obtain ⟨t, ht⟩ := exec_of_accessOf hx
  rw [ht, ha, State.probe_fault hp hb hm, Probe.answer]

/-! ### The bytes of an access stand in one word (R61, R122) -/

theorem alignWord_toNat (p : Word) : (alignWord p).toNat = wordAddr p.toNat := by
  have hmask : 0xFFFFFFFC#32 = BitVec.allOnes 32 <<< 2 := by decide
  have h : alignWord p = (p >>> 2) <<< 2 := by
    ext i hi
    simp only [alignWord, hmask, BitVec.getElem_and, BitVec.getElem_shiftLeft, BitVec.getElem_allOnes]
    grind
  have hp := p.isLt
  rw [h, BitVec.toNat_shiftLeft, BitVec.toNat_ushiftRight, Nat.shiftRight_eq_div_pow, Nat.shiftLeft_eq, wordAddr]
  omega

theorem physAt_of_small {p : Word} {i : Nat} (h : p.toNat + i < 4294967296) : physAt p i = p.toNat + i := by
  rw [physAt, BitVec.toNat_add, BitVec.toNat_ofNat]
  omega

/-- A field that does not cross the end of its word. -/
theorem wordAddr_of_mem_spanBytes {p : Word} {n b : Nat} (hn : p.toNat % 4 + n ≤ 4) (hb : b ∈ spanBytes p n) :
    wordAddr b = wordAddr p.toNat := by
  obtain ⟨i, hi, rfl⟩ := List.mem_map.mp hb
  have hi : i < n := List.mem_range.mp hi
  have hp := p.isLt
  rw [physAt_of_small (by omega), wordAddr, wordAddr]
  omega

/-- The bytes in lanes of the aligned word. -/
theorem wordAddr_of_mem_laneBytes {be : Bool} {p : Word} {lo hi b : Nat} (hb : b ∈ laneBytes be p lo hi) :
    wordAddr b = wordAddr p.toNat := by
  obtain ⟨l, hl, rfl⟩ := List.mem_map.mp hb
  have hl : l < 4 := List.mem_range.mp (List.mem_filter.mp hl).1
  have ho : laneOffset be l < 4 := by unfold laneOffset; split <;> omega
  have hp := p.isLt
  have ha := alignWord_toNat p
  rw [physAt_of_small (by unfold wordAddr at ha; omega), ha, wordAddr, wordAddr]
  omega

theorem toNat_even {addr : Word} (h : addr.getLsbD 0 = false) : addr.toNat % 2 = 0 := by
  simpa [BitVec.getLsbD, Nat.testBit_zero] using h

theorem toNat_wordAligned {addr : Word} (h : (addr.extractLsb' 0 2 != 0#2) = false) : addr.toNat % 4 = 0 := by
  simpa using congrArg BitVec.toNat (bne_eq_false_iff_eq.mp h)

/-- Where the BIU keeps the low two bits of the address, an aligned access touches one physical word. -/
theorem wordAddr_of_mem_bytes {i : Instr} {s : State} {x : Access} (hx : s.accessOf i = some x)
    (ha : x.misaligned = false) (hp : (biu s.cfg x.addr).toNat % 4 = x.addr.toNat % 4) {b : Nat} (hb : b ∈ x.bytes) :
    wordAddr b = wordAddr (biu s.cfg x.addr).toNat := by
  cases i <;> cases hx
  all_goals dsimp only at ha hp hb ⊢
  case lb | lbu | sb => exact wordAddr_of_mem_spanBytes (by omega) hb
  case lh | lhu | sh => exact wordAddr_of_mem_spanBytes (by have := toNat_even ha; omega) hb
  case lw | sw => exact wordAddr_of_mem_spanBytes (by have := toNat_wordAligned ha; omega) hb
  case lwl | lwr | swl | swr => exact wordAddr_of_mem_laneBytes hb

end Sys2Proof.Machine
end

section
/-! Loads and stores that pass their checks (R110): the value delivered, the bytes stored, and what a load or a fetch
finds after a store (R111 to R125, R67, R69). -/

namespace Sys2Proof.Machine

/-- The word of every load and store is its instruction's under either `MULT_FUNCT_VARIANT` (R86). -/
theorem encodes_of_accessOf {i : Instr} {s : State} {x : Access} (hx : s.accessOf i = some x) {w : Word}
    (hw : encode .asPrinted i = w) : Encodes w i := by
  intro _
  subst hw
  cases i <;> cases hx
  all_goals simp [encode, decode]

/-! ### Loads (R111 to R115) -/

/-- A load that passes its checks delivers its value (R124). -/
theorem loadAccess_delivers {s : State} {m : Bool} {addr : Word} {bytes bytes' : List Nat} (rt : Reg) (v : Word)
    (hb : bytes = bytes') (h : s.Admits .load m addr bytes') :
    ∃ t, loadAccess m addr bytes rt v s = .next t ∧ DeliversTo s t rt v true :=
  ⟨_, loadAccess_admitted rt v (hb ▸ h), s.retireLoad_deliversTo rt v⟩

theorem readHalf_bytes (m : Memory) (be : Bool) (p : Word) :
    Memory.readHalf m be p = if be
      then Memory.read m p.toNat ++ Memory.read m (p + 1#32).toNat
      else Memory.read m (p + 1#32).toNat ++ Memory.read m p.toNat := by
  simp only [Memory.readHalf, physAt_zero]
  rfl

/-- Settles O23: each load is a `loadAccess` of its bytes. -/
theorem loadResults : Obligations.LoadResults := by
  rintro s base rt off _ _ rfl rfl
  refine ⟨⟨encodes_of_accessOf (s := s) rfl rfl, fun h => ?_⟩,
    ⟨encodes_of_accessOf (s := s) rfl rfl, fun h => ?_⟩, fun b hb => ?_, fun w hw => ?_⟩
  · rw [← physAt_zero]
    exact loadAccess_delivers rt _ (spanBytes_one _) h
  · rw [← physAt_zero]
    exact loadAccess_delivers rt _ (spanBytes_one _) h
  · rw [hb, ← readHalf_bytes]
    exact ⟨⟨encodes_of_accessOf (s := s) rfl rfl, loadAccess_delivers rt _ (spanBytes_two _)⟩,
      ⟨encodes_of_accessOf (s := s) rfl rfl, loadAccess_delivers rt _ (spanBytes_two _)⟩⟩
  · rw [hw, ← readWord_bytes]
    exact ⟨encodes_of_accessOf (s := s) rfl rfl, loadAccess_delivers rt _ (spanBytes_four _)⟩

/-! ### Stores (R118 to R123) -/

/-- A store of a field that passes its checks (R59, R125). -/
theorem storeAccess_span {s : State} (hm : Memory.wf s.mem = true) {m : Bool} {addr : Word} (be : Bool) (p : Word)
    {n : Nat} (hn : n ≤ 4) (v : Word) (h : s.Admits .store m addr (spanBytes p n)) :
    ∃ t, storeAccess m addr (spanCells be p n v) s = .next t ∧ StoresAt s t (spanCells be p n v) :=
  ⟨_, storeAccess_admitted (by rwa [spanCells_addresses]),
    State.storeBytes_storesAt hm (spanCells_inSpace be p n v)
      (by rw [spanCells_addresses]; exact spanBytes_nodup p hn)⟩

/-- A store of lanes that passes its checks (R57, R125). -/
theorem storeAccess_lanes {s : State} (hm : Memory.wf s.mem = true) {m : Bool} {addr : Word} (be : Bool) (p : Word)
    (lo hi : Nat) (v : Word) (h : s.Admits .store m addr (laneBytes be p lo hi)) :
    ∃ t, storeAccess m addr (laneCells be p lo hi v) s = .next t ∧ StoresAt s t (laneCells be p lo hi v) :=
  ⟨_, storeAccess_admitted (by rwa [laneCells_addresses]),
    State.storeBytes_storesAt hm (laneCells_inSpace be p lo hi v)
      (by rw [laneCells_addresses]; exact laneBytes_nodup be p lo hi)⟩

theorem spanCells_one (be : Bool) (p v : Word) : spanCells be p 1 v = [(p.toNat, v.extractLsb' 0 8)] := by
  cases be <;> simp [spanCells, physAt, byteOf, p.isLt]

theorem spanCells_two (be : Bool) (p v : Word) : spanCells be p 2 v = if be
    then [(p.toNat, v.extractLsb' 8 8), ((p + 1#32).toNat, v.extractLsb' 0 8)]
    else [(p.toNat, v.extractLsb' 0 8), ((p + 1#32).toNat, v.extractLsb' 8 8)] := by
  cases be <;> simp [spanCells, List.range_succ, physAt, byteOf, p.isLt]

theorem spanCells_four (be : Bool) (p v : Word) : spanCells be p 4 v = if be
    then [(p.toNat, v.extractLsb' 24 8), ((p + 1#32).toNat, v.extractLsb' 16 8),
      ((p + 2#32).toNat, v.extractLsb' 8 8), ((p + 3#32).toNat, v.extractLsb' 0 8)]
    else [(p.toNat, v.extractLsb' 0 8), ((p + 1#32).toNat, v.extractLsb' 8 8),
      ((p + 2#32).toNat, v.extractLsb' 16 8), ((p + 3#32).toNat, v.extractLsb' 24 8)] := by
  cases be <;> simp [spanCells, List.range_succ, physAt, byteOf, p.isLt]

/-- Settles O26: each store is a `storeAccess` of its field. -/
theorem storeResults : Obligations.StoreResults := by
  rintro s base rt off _ _ _ hm rfl rfl rfl
  refine ⟨⟨encodes_of_accessOf (s := s) rfl rfl, fun h => ?_⟩,
    ⟨encodes_of_accessOf (s := s) rfl rfl, fun h => ?_⟩,
    ⟨encodes_of_accessOf (s := s) rfl rfl, fun h => ?_⟩⟩
  · rw [← spanCells_one s.cfg.bigEndian]
    exact storeAccess_span hm _ _ (by decide) _ (by rwa [spanBytes_one])
  · rw [← spanCells_two]
    exact storeAccess_span hm _ _ (by decide) _ (by rwa [spanBytes_two])
  · rw [← spanCells_four]
    exact storeAccess_span hm _ _ (by decide) _ (by rwa [spanBytes_four])

section
variable {s t : State} {be : Bool} {p v addr : Word} {j : Nat}

/-- SWL stores the bytes of rt from the most significant on in the lanes from the addressed one downward (R121, R122). -/
theorem StoresAt.read_left
    (h : StoresAt s t (laneCells be p 0 (laneIndex be addr) (storeLeftData (laneIndex be addr) v)))
    (hj : j ≤ laneIndex be addr) :
    Memory.read t.mem (physAt (alignWord p) (if be then addr.toNat % 4 + j else addr.toNat % 4 - j)) =
      v.extractLsb' (8 * (3 - j)) 8 := by
  have hl := laneIndex_eq be addr
  have hl3 : laneIndex be addr ≤ 3 := by split at hl <;> omega
  have ho : laneOffset be (laneIndex be addr - j) = if be then addr.toNat % 4 + j else addr.toNat % 4 - j := by
    cases be
    all_goals simp only [laneOffset, if_true, Bool.false_eq_true, if_false] at hl ⊢; omega
  rw [← ho, h.stored _ _ (mem_laneCells (Nat.zero_le _) (Nat.sub_le _ j) (by omega)),
    storeLeftData_byte v hl3 (Nat.sub_le _ j), Nat.sub_sub_self hj]

/-- SWR stores the bytes of rt from the least significant on in the lanes from the addressed one upward (R123, R122). -/
theorem StoresAt.read_right
    (h : StoresAt s t (laneCells be p (laneIndex be addr) 3 (storeRightData (laneIndex be addr) v)))
    (hj : laneIndex be addr + j ≤ 3) :
    Memory.read t.mem (physAt (alignWord p) (if be then addr.toNat % 4 - j else addr.toNat % 4 + j)) =
      v.extractLsb' (8 * j) 8 := by
  have hl := laneIndex_eq be addr
  have ho : laneOffset be (laneIndex be addr + j) = if be then addr.toNat % 4 - j else addr.toNat % 4 + j := by
    cases be
    all_goals simp only [laneOffset, if_true, Bool.false_eq_true, if_false] at hl ⊢; omega
  rw [← ho, h.stored _ _ (mem_laneCells (Nat.le_add_right _ j) hj (by omega)),
    storeRightData_byte v hj (Nat.le_add_right _ j), Nat.add_sub_cancel_left]

end

/-- Settles O27: each store is a `storeAccess` of its lanes, and the bytes in them are those of R122. -/
theorem unalignedStoreResults : Obligations.UnalignedStoreResults := by
  rintro s base rt off addr _ _ _ _ hm haddr rfl rfl rfl rfl
  have hl := laneIndex_eq s.cfg.bigEndian addr
  refine ⟨⟨encodes_of_accessOf (s := s) rfl rfl, fun h => ?_⟩, ⟨encodes_of_accessOf (s := s) rfl rfl, fun h => ?_⟩⟩
  · obtain ⟨t, ht, hst⟩ := storeAccess_lanes hm _ _ _ _ (storeLeftData _ (s.readRt rt)) h
    refine ⟨t, by subst haddr; exact ht, hst, fun j hj => ⟨fun hbe hja => ?_, fun hbe hja => ?_⟩⟩
    all_goals
      have hb := hst.read_left (j := j) (by rw [hl, hbe]; simp only [if_true, Bool.false_eq_true, if_false]; omega)
      simp only [hbe, if_true, Bool.false_eq_true, if_false] at hb
      exact hb
  · obtain ⟨t, ht, hst⟩ := storeAccess_lanes hm _ _ _ _ (storeRightData _ (s.readRt rt)) h
    refine ⟨t, by subst haddr; exact ht, hst, fun j hj => ⟨fun hbe hja => ?_, fun hbe hja => ?_⟩⟩
    all_goals
      have hb := hst.read_right (j := j) (by rw [hl, hbe]; simp only [if_true, Bool.false_eq_true, if_false]; omega)
      simp only [hbe, if_true, Bool.false_eq_true, if_false] at hb
      exact hb

end Sys2Proof.Machine
end

section
/-! What a load and a fetch find after a store (R67, R69). -/

namespace Sys2Proof.Machine

/-- The state that a store of n bytes of v from p on leaves (R59, R125). -/
def State.afterStore (s : State) (p : Word) (n : Nat) (v : Word) : State :=
  (s.storeBytes (spanCells s.cfg.bigEndian p n v)).retireMem

theorem storeAccess_afterStore {s : State} {m : Bool} {addr p : Word} {n : Nat} (v : Word)
    (h : s.Admits .store m addr (spanBytes p n)) :
    storeAccess m addr (spanCells s.cfg.bigEndian p n v) s = .next (s.afterStore p n v) :=
  storeAccess_admitted (by rwa [spanCells_addresses])

section
variable (s : State) (p : Word) (n : Nat) (v : Word)

@[simp] theorem State.afterStore_cfg : (s.afterStore p n v).cfg = s.cfg := by simp [State.afterStore]
@[simp] theorem State.afterStore_sr : (s.afterStore p n v).sr = s.sr := by simp [State.afterStore]
@[simp] theorem State.afterStore_mtcShadow : (s.afterStore p n v).mtcShadow = none := by simp [State.afterStore]
@[simp] theorem State.afterStore_mem :
    (s.afterStore p n v).mem = (s.storeBytes (spanCells s.cfg.bigEndian p n v)).mem := by simp [State.afterStore]
@[simp] theorem State.afterStore_stored :
    (s.afterStore p n v).stored = (s.storeBytes (spanCells s.cfg.bigEndian p n v)).stored := by simp [State.afterStore]

end

/-! ### A load directly after the store (R67, R343) -/

section
variable {s : State} {p : Word} {n : Nat} {v : Word}

theorem State.afterStore_user (hs : s.mtcShadow = none) : (s.afterStore p n v).user = s.user := by
  rw [State.user_of_noShadow (s.afterStore_mtcShadow p n v), State.afterStore_sr, State.user_of_noShadow hs]

/-- What is admitted depends on the parameters and the mode alone. -/
theorem State.Admits.of_same {t : State} {k : AccessKind} {m : Bool} {addr : Word} {bytes : List Nat}
    (h : s.Admits k m addr bytes) (hc : t.cfg = s.cfg) (hu : t.user = s.user) : t.Admits k m addr bytes where
  aligned := h.aligned
  permitted := by rw [State.beyondLimit, hc, hu]; exact h.permitted
  answered := hc ▸ h.answered
  mapped := hc ▸ h.mapped

theorem State.load_afterStore (hs : s.mtcShadow = none) {m : Bool} {addr : Word} {bytes : List Nat} {rd : Reg}
    {w : Word} (h : s.Admits .load m addr bytes) (hrd : rd ≠ 0#5) {j : Instr}
    (hj : exec j (s.afterStore p n v) = loadAccess m addr bytes rd w (s.afterStore p n v)) :
    ∃ u, exec j (s.afterStore p n v) = .next u ∧ u.loadPending = some (rd, w) :=
  ⟨_, hj.trans (loadAccess_admitted rd w (h.of_same (s.afterStore_cfg p n v) (State.afterStore_user hs))),
    by simp [hrd]⟩

end

/-- Settles O31: the load finds the bytes of the store (`readWord_storeBytes_span` and its siblings). -/
theorem loadSeesPrecedingStore : Obligations.LoadSeesPrecedingStore := by
  rintro s base rt off addr p v hm hs ha hp rfl
  have hword := State.readWord_storeBytes_span hm s.cfg.bigEndian p (s.readRt rt)
  have hhalf := State.readHalf_storeBytes_span hm s.cfg.bigEndian p (s.readRt rt)
  have hbyte := State.readByte_storeBytes_span hm s.cfg.bigEndian p (s.readRt rt)
  have haddr {t : State} {b : Reg} {o : Imm} (hb : o.signExtend 32 + t.readRs b = addr) : t.dataAddr b o = addr := hb
  refine ⟨fun hst hld => ⟨s.afterStore p 4 (s.readRt rt), ?sw, fun b rd o hrd hb => ?lw⟩,
    fun hst hld => ⟨s.afterStore p 2 (s.readRt rt), ?sh, fun b rd o hrd hb => ⟨?lh, ?lhu⟩⟩,
    fun hst hld => ⟨s.afterStore p 1 (s.readRt rt), ?sb, fun b rd o hrd hb => ⟨?lb, ?lbu⟩⟩⟩
  case sw | sh | sb => rw [← storeAccess_afterStore _ hst]; subst ha hp; rfl
  case lw | lh | lhu | lb | lbu =>
    refine State.load_afterStore hs hld hrd ?_
    simp only [exec, execLw, execLh, execLhu, execLb, execLbu, State.dataPhys, haddr hb, State.afterStore_cfg,
      State.afterStore_mem, ← hp, hword, hhalf, hbyte]
    rfl

/-! ### A fetch after the store (R69, R351) -/

theorem State.mem_stored_afterStore (s : State) (p : Word) {n : Nat} (hn : 0 < n) (v : Word) :
    (alignWord p).toNat ∈ (s.afterStore p n v).stored := by
  rw [State.afterStore_stored, State.mem_storeBytes_stored]
  exact .inr ⟨physAt p 0, _, List.mem_map.mpr ⟨0, List.mem_range.mpr hn, rfl⟩, by rw [physAt_zero, alignWord_toNat]⟩

/-- The last check of a fetch: a word stored to is refused (R69). -/
theorem State.fetch_of_stored {s : State} (ha : s.pc.extractLsb' 0 2 = 0#2) (hp : ¬ s.beyondLimit s.pc)
    (hb : isBusError s.cfg .fetch (biu s.cfg s.pc) = false)
    (hm : ∀ p ∈ spanBytes (alignWord (biu s.cfg s.pc)) 4, isMapped s.cfg .fetch p = true)
    (hs : (alignWord (biu s.cfg s.pc)).toNat ∈ s.stored) : s.fetch = .refused .fetchOfStoredWord := by
  have hal : ¬ (notWordAligned s.pc = true ∨ (s.user = true ∧ s.cfg.userLimit.toNat ≤ s.pc.toNat)) :=
    fun h => h.elim (fun h => by simp [notWordAligned, ha] at h) hp
  have hmap : (spanBytes (alignWord (biu s.cfg s.pc)) 4).all (isMapped s.cfg .fetch) = true := List.all_eq_true.mpr hm
  have hst : s.stored.contains (alignWord (biu s.cfg s.pc)).toNat = true := by simpa using hs
  simp only [State.fetch, if_neg hal, hb, hmap, if_pos hst, Bool.false_eq_true, Bool.not_true, if_false]

/-- Settles O32: the store has marked the word, and the mark is the last check of the fetch. -/
theorem storedWordIsNotFetched : Obligations.StoredWordIsNotFetched := by
  rintro s t base rt off _ rfl hst ht pc (hpc : _ = alignWord (s.dataPhys base off)) ha hp hb hm
  have ht : s.afterStore (s.dataPhys base off) 4 (s.readRt rt) = t :=
    Host.Outcome.next.inj ((storeAccess_afterStore _ hst).symm.trans ht)
  have hcfg : t.cfg = s.cfg := by rw [← ht, State.afterStore_cfg]
  have hmark := s.mem_stored_afterStore (s.dataPhys base off) (n := 4) (by decide) (s.readRt rt)
  rw [ht, ← hpc] at hmark
  exact State.fetch_of_stored (s := { t with pc := pc }) ha hp (by simpa only [hcfg] using hb)
    (by simpa only [hcfg] using hm) (by simpa only [hcfg] using hmark)

end Sys2Proof.Machine
end

section
/-! A fetch that takes an exception (R62 to R65, R293). -/

namespace Sys2Proof.Machine

theorem State.fetch_addressError {s : State} (h : s.pc.extractLsb' 0 2 ≠ 0#2 ∨ s.beyondLimit s.pc) :
    s.fetch = .raise (.adel s.pc) :=
  if_pos (h.imp_left fun h => by simpa [notWordAligned] using h)

theorem State.fetch_busError {s : State} (ha : s.pc.extractLsb' 0 2 = 0#2) (hp : ¬ s.beyondLimit s.pc)
    (hb : isBusError s.cfg .fetch (biu s.cfg s.pc) = true) : s.fetch = .raise .ibe :=
  (if_neg fun h => h.elim (fun h => by simp [notWordAligned, ha] at h) hp).trans (if_pos hb)

/-- A step in which neither reset nor an interrupt comes first and the fetch takes an exception (R35 step 4). -/
theorem stepUnder_of_raise {s : State} {e : Exc} (hr : s.pins.reset = false) (hi : s.interruptNow = false)
    (hf : s.fetch = .raise e) : stepUnder s = .next (preempt e s).endStep := by
  simp [stepUnder, hr, hi, hf]

theorem EntryWrites.endStep {e : Exc} {s t : State} (h : EntryWrites e s t) : EntryWrites e s t.endStep where
  epc := by rw [State.endStep_epc, h.epc]
  bd := by rw [State.endStep_cause, h.bd]
  excCode := by rw [State.endStep_cause, h.excCode]
  unit := by rw [State.endStep_cause, h.unit]
  ip := by rw [State.endStep_cause, h.ip]
  badVAddr := by rw [State.endStep_badVAddr, h.badVAddr]
  statusStack := by rw [State.endStep_sr, h.statusStack]
  statusRest := by rw [State.endStep_sr, h.statusRest]
  pc := by rw [State.endStep_pc, h.pc]
  npc := by rw [State.endStep_npc, State.endStep_pc, h.npc]
  inDelaySlot := by rw [State.endStep_inDelaySlot, h.inDelaySlot]
  shadow := by rw [State.endStep_mtcShadow, h.shadow]

theorem State.gprRead_preempt (e : Exc) (s : State) (q : Reg) : (preempt e s).gprRead q = s.settled q :=
  (State.gprRead_congr (by simp [preempt]) q).trans (s.gprRead_landEarly q)

/-- The step of an event before the instruction: the entry, the pending load landed, HI, LO and memory as before. -/
theorem preempt_endStep_enters (e : Exc) (s : State) : EntryWrites e s (preempt e s).endStep ∧
    (∀ q, (preempt e s).endStep.gprRead q = s.settled q) ∧ SameHiLo s (preempt e s).endStep ∧
    SameMemory s (preempt e s).endStep :=
  ⟨(preempt_entryWrites e s).endStep,
    fun q => (State.gprRead_congr (by simp) q).trans (State.gprRead_preempt e s q),
    ⟨by simp [preempt], by simp [preempt], by simp [preempt]⟩, .of_eq (by simp [preempt]) (by simp [preempt])⟩

/-- Settles O50: the check that fails, then the entry. -/
theorem fetchErrors : Obligations.FetchErrors := by
  intro s hs hr hi
  have hstep {e : Exc} (hf : s.fetch = .raise e) : step s = .next (preempt e s).endStep :=
    (step_of_settled hs).trans (stepUnder_of_raise hr (State.interruptNow_of_masked hi) hf)
  exact ⟨fun h => ⟨_, hstep (State.fetch_addressError h), preempt_endStep_enters _ s⟩,
    fun ha hp hb => ⟨_, hstep (State.fetch_busError ha hp hb), preempt_endStep_enters _ s⟩⟩

end Sys2Proof.Machine
end

section
/-! User mode and the addresses from the user limit on, under the default segments and limit (R53, R64). -/

namespace Sys2Proof.Machine

/-! ### One step under one visibility (R35) -/

section
variable {s t : State} {v : MtcVisibility} (hc : s.cfg = { Config.default with mtcVisibility := v })
  (hu : s.user = true)
include hc hu

theorem State.beyondLimit_iff (addr : Word) : s.beyondLimit addr ↔ 0x80000000 ≤ addr.toNat := by
  rw [State.beyondLimit, hc, hu]
  exact ⟨fun h => h.2, fun h => ⟨rfl, h⟩⟩

/-- The bytes of a load or store that user mode may make are below the limit, where the BIU maps nothing (R53, R64). -/
theorem State.Admits.bytes_below_limit {i : Instr} {x : Access} (hx : s.accessOf i = some x)
    (h : s.Admits x.kind x.misaligned x.addr x.bytes) {b : Nat} (hb : b ∈ x.bytes) : b < 0x80000000 := by
  have haddr : x.addr.toNat < 0x80000000 :=
    Nat.not_le.mp fun hle => h.permitted ((State.beyondLimit_iff hc hu x.addr).mpr hle)
  have hbiu : biu s.cfg x.addr = x.addr := by rw [hc]; exact biu_default_elsewhere (.inl haddr)
  have hw := wordAddr_of_mem_bytes hx h.aligned (by rw [hbiu]) hb
  rw [hbiu, wordAddr, wordAddr] at hw
  omega

theorem Effect.read_above_limit {i : Instr} (he : Effect i s t) (hm : Memory.wf s.mem = true) {a : Nat}
    (ha : 0x80000000 ≤ a) : Memory.read t.mem a = Memory.read s.mem a := by
  cases he with
  | store cells _ hcells hx =>
    obtain ⟨x, hx, hk, hb, had⟩ := hx
    rw [State.retireMem_mem]
    refine State.storeBytes_read_other hm hcells fun b hmem => Nat.not_lt.mpr ha ?_
    exact State.Admits.bytes_below_limit hc hu hx (hk ▸ had) (hb ▸ List.mem_map.mpr ⟨_, hmem, rfl⟩)
  | _ => simp

/-- No step changes memory from the limit on. -/
theorem stepUnder_read_above_limit (hm : Memory.wf s.mem = true) (h : stepUnder s = .next t) {a : Nat}
    (ha : 0x80000000 ≤ a) : Memory.read t.mem a = Memory.read s.mem a := by
  obtain ⟨-, rfl⟩ | ⟨-, e, rfl⟩ | ⟨-, -, w, u, -, hr, rfl⟩ := stepUnder_cases h
  · simp
  · simp [preempt]
  · rw [State.endStep_mem]
    obtain ⟨i, -, he⟩ | ⟨e, rfl⟩ := runWord_effect hr
    · exact he.read_above_limit hc hu hm ha
    · simp

/-- The step of a load or store from the limit on takes an exception or is a reset: kernel mode, memory as it was. -/
theorem stepUnder_of_access_above_limit (h : stepUnder s = .next t) {w : Word} {i : Instr} {x : Access}
    (hf : s.fetch = .word w) (hd : decode .asPrinted w = .instr i) (hx : s.accessOf i = some x)
    (ha : 0x80000000 ≤ x.addr.toNat) : t.sr.getLsbD 1 = false ∧ t.mem = s.mem := by
  obtain ⟨-, rfl⟩ | ⟨-, e, rfl⟩ | ⟨-, -, w', u, hw, hr, rfl⟩ := stepUnder_cases h
  · exact ⟨by rw [State.nextSample_sr, State.applyReset_sr, resetStatus_kuc], by simp⟩
  · exact ⟨by rw [State.endStep_sr, preempt, State.takeException_sr, pushStatus_kuc], by simp [preempt]⟩
  · cases hf.symm.trans hw
    have hrun : runWord w s = exec i s := by rw [runWord, hc]; simp only [Config.default, hd]
    rw [hrun, exec_of_addressError hx (.inr ((State.beyondLimit_iff hc hu _).mpr ha))] at hr
    cases hr
    exact ⟨by rw [State.endStep_sr, State.takeException_sr, pushStatus_kuc], by simp⟩

end

/-! ### The step (R247) -/

/-- Under `MTC_VISIBILITY` unspecified the step is one under a visibility that sees SR as it stands. -/
theorem step_next_visibility {s t : State} (hv : s.cfg.mtcVisibility = .unspecified) (h : step s = .next t) :
    ∃ v a, stepUnder (s.withVisibility v) = .next a ∧ (s.withVisibility v).user = s.user ∧
      t = a.withVisibility .unspecified := by
  obtain ⟨-, hu⟩ | ⟨-, a, -, ha, -, rfl, -⟩ := step_cases h
  · refine ⟨.unspecified, t, by rwa [State.withVisibility_self hv], by rw [State.withVisibility_self hv], ?_⟩
    rw [State.withVisibility_self (by rw [stepUnder_cfg hu, hv])]
  · refine ⟨.next, a, ha, ?_, rfl⟩
    simp [State.user, State.srView, State.withVisibility, hv]

theorem State.withVisibility_fetch {s : State} {v : MtcVisibility} (hu : (s.withVisibility v).user = s.user) :
    (s.withVisibility v).fetch = s.fetch := by
  unfold State.fetch
  rw [hu]
  rfl

/-- Settles O60: the step's own answer keeps memory from the limit on, and its load or store from there on fails. -/
theorem userStoresStayBelowLimit : Obligations.UserStoresStayBelowLimit := by
  intro s t hc hm hu h
  obtain ⟨v, b, hb, hbu, rfl⟩ := step_next_visibility (by rw [hc]; rfl) h
  have hcv : (s.withVisibility v).cfg = { Config.default with mtcVisibility := v } := by rw [State.withVisibility, hc]
  have huv := hbu.trans hu
  refine ⟨fun a ha => stepUnder_read_above_limit hcv huv hm hb ha, fun w i x hf hd hx hax => ?_⟩
  obtain ⟨hk, hmem⟩ := stepUnder_of_access_above_limit hcv huv hb ((State.withVisibility_fetch hbu).trans hf) hd hx hax
  exact ⟨hk, fun a => congrArg (Memory.read · a) hmem⟩

end Sys2Proof.Machine
end

section
/-! What the decoder reads from a word (R80 to R84): each format's word by its fields, and a word whose constant-zero
bits are masked (R94). -/

namespace Sys2Proof

/-! ### A word is the word of its fields -/

section
variable (w : Word)

theorem encodeI_fields : encodeI (fieldOp w) (fieldRs w) (fieldRt w) (fieldImm w) = w := by
  unfold encodeI fieldOp fieldRs fieldRt fieldImm; ext i hi; grind

theorem encodeJ_fields : encodeJ (fieldOp w) (fieldTarget w) = w := by
  unfold encodeJ fieldOp fieldTarget; ext i hi; grind

theorem append_registerFields :
    fieldOp w ++ fieldRs w ++ fieldRt w ++ fieldRd w ++ fieldShamt w ++ fieldFunct w = w := by
  unfold fieldOp fieldRs fieldRt fieldRd fieldShamt fieldFunct; ext i hi; grind

theorem append_codeFields : fieldOp w ++ fieldCode w ++ fieldFunct w = w := by
  unfold fieldOp fieldCode fieldFunct; ext i hi; grind

theorem append_copMoveFields : fieldOp w ++ fieldRs w ++ fieldRt w ++ fieldRd w ++ fieldLow11 w = w := by
  unfold fieldOp fieldRs fieldRt fieldRd fieldLow11; ext i hi; grind

theorem append_cop0OperationFields : fieldOp w ++ fieldCo w ++ fieldCofun w = w := by
  unfold fieldOp fieldCo fieldCofun; ext i hi; grind

/-- CO is the top bit of rs (R84). -/
theorem fieldCo_eq : fieldCo w = (fieldRs w).extractLsb' 4 1 := by
  unfold fieldCo fieldRs; ext i hi; grind

end

/-! ### Each format (R81 to R84) -/

section
variable {w : Word} {op funct : BitVec 6} {rs rt rd shamt minor cond : BitVec 5} {imm : Imm} {z : CopUnit}

theorem eq_encodeI_iff :
    w = encodeI op rs rt imm ↔ fieldOp w = op ∧ fieldRs w = rs ∧ fieldRt w = rt ∧ fieldImm w = imm := by
  refine ⟨fun h => by simp [h], ?_⟩
  rintro ⟨rfl, rfl, rfl, rfl⟩
  exact (encodeI_fields w).symm

theorem eq_encodeJ_iff {target : BitVec 26} : w = encodeJ op target ↔ fieldOp w = op ∧ fieldTarget w = target := by
  refine ⟨fun h => by simp [h], ?_⟩
  rintro ⟨rfl, rfl⟩
  exact (encodeJ_fields w).symm

theorem eq_encodeR_iff :
    w = encodeR rs rt rd shamt funct ↔
      fieldOp w = 0b000000#6 ∧ fieldRs w = rs ∧ fieldRt w = rt ∧ fieldRd w = rd ∧ fieldShamt w = shamt ∧
        fieldFunct w = funct := by
  refine ⟨fun h => by simp [h], ?_⟩
  rintro ⟨hop, rfl, rfl, rfl, rfl, rfl⟩
  rw [encodeR, ← hop, append_registerFields]

theorem eq_encodeCode_iff {code : BitVec 20} :
    w = encodeCode code funct ↔ fieldOp w = 0b000000#6 ∧ fieldCode w = code ∧ fieldFunct w = funct := by
  refine ⟨fun h => by simp [h], ?_⟩
  rintro ⟨hop, rfl, rfl⟩
  rw [encodeCode, ← hop, append_codeFields]

theorem eq_encodeCopMove_iff :
    w = encodeCopMove z minor rt rd ↔
      fieldOp w = 0b0100#4 ++ z ∧ fieldRs w = minor ∧ fieldRt w = rt ∧ fieldRd w = rd ∧ fieldLow11 w = 0#11 := by
  refine ⟨fun h => by simp [h], ?_⟩
  rintro ⟨hop, rfl, rfl, rfl, hlow⟩
  rw [encodeCopMove, ← hop, ← hlow, append_copMoveFields]

theorem eq_encodeCopBranch_iff :
    w = encodeCopBranch z cond imm ↔
      fieldOp w = 0b0100#4 ++ z ∧ fieldRs w = 0b01000#5 ∧ fieldRt w = cond ∧ fieldImm w = imm :=
  eq_encodeI_iff

theorem encodeCop0Operation_eq (minor : BitVec 5) :
    encodeCop0Operation minor = 0b010000#6 ++ 1#1 ++ (0#20 ++ minor) := by
  revert minor; decide

theorem eq_encodeCop0Operation_iff :
    w = encodeCop0Operation minor ↔ fieldOp w = 0b010000#6 ∧ fieldCo w = 1#1 ∧ fieldCofun w = 0#20 ++ minor := by
  refine ⟨fun h => by simp [h], ?_⟩
  rintro ⟨hop, hco, hcofun⟩
  rw [encodeCop0Operation_eq, ← hop, ← hco, ← hcofun, append_cop0OperationFields]

end

/-! ### The fields of a masked word -/

section
variable (w : Word) (n : Nat)

theorem extractLsb'_and_ofNat {start len : Nat} (h : start + len ≤ 32) :
    (w &&& BitVec.ofNat 32 n).extractLsb' start len = w.extractLsb' start len &&& BitVec.ofNat len (n >>> start) := by
  rw [BitVec.extractLsb'_and]
  congr 1
  ext i hi
  simp [← BitVec.getLsbD_eq_getElem, BitVec.getLsbD_ofNat, hi, show start + i < 32 by omega]

@[simp] theorem fieldOp_and_ofNat :
    fieldOp (w &&& BitVec.ofNat 32 n) = fieldOp w &&& BitVec.ofNat 6 (n >>> 26) :=
  extractLsb'_and_ofNat w n (by decide)

@[simp] theorem fieldRs_and_ofNat :
    fieldRs (w &&& BitVec.ofNat 32 n) = fieldRs w &&& BitVec.ofNat 5 (n >>> 21) :=
  extractLsb'_and_ofNat w n (by decide)

@[simp] theorem fieldRt_and_ofNat :
    fieldRt (w &&& BitVec.ofNat 32 n) = fieldRt w &&& BitVec.ofNat 5 (n >>> 16) :=
  extractLsb'_and_ofNat w n (by decide)

@[simp] theorem fieldRd_and_ofNat :
    fieldRd (w &&& BitVec.ofNat 32 n) = fieldRd w &&& BitVec.ofNat 5 (n >>> 11) :=
  extractLsb'_and_ofNat w n (by decide)

@[simp] theorem fieldShamt_and_ofNat :
    fieldShamt (w &&& BitVec.ofNat 32 n) = fieldShamt w &&& BitVec.ofNat 5 (n >>> 6) :=
  extractLsb'_and_ofNat w n (by decide)

@[simp] theorem fieldFunct_and_ofNat :
    fieldFunct (w &&& BitVec.ofNat 32 n) = fieldFunct w &&& BitVec.ofNat 6 (n >>> 0) :=
  extractLsb'_and_ofNat w n (by decide)

@[simp] theorem fieldImm_and_ofNat :
    fieldImm (w &&& BitVec.ofNat 32 n) = fieldImm w &&& BitVec.ofNat 16 (n >>> 0) :=
  extractLsb'_and_ofNat w n (by decide)

@[simp] theorem fieldLow11_and_ofNat :
    fieldLow11 (w &&& BitVec.ofNat 32 n) = fieldLow11 w &&& BitVec.ofNat 11 (n >>> 0) :=
  extractLsb'_and_ofNat w n (by decide)

/-! A mask of ones, in the form that `simp` leaves it in, keeps the field. -/

@[simp] theorem and_ones5 (x : BitVec 5) : x &&& 0b11111#5 = x := BitVec.and_allOnes

@[simp] theorem and_ones6 (x : BitVec 6) : x &&& 0b111111#6 = x := BitVec.and_allOnes

@[simp] theorem and_ones16 (x : BitVec 16) : x &&& 0xFFFF#16 = x := BitVec.and_allOnes

theorem and_not_zero : w &&& ~~~0x00000000#32 = w := by
  rw [BitVec.not_zero, BitVec.and_allOnes]

end

/-! ### Each format with its constant-zero fields masked (R82 to R84, R94)

A lemma for each mask of the table: the masked word is the format's word exactly if the other fields are. -/

section
variable {w : Word} {op funct : BitVec 6} {rs rt rd shamt minor : BitVec 5} {imm : Imm} {z : CopUnit}

theorem masked_shamt_iff :
    w &&& ~~~0x000007C0#32 = encodeR rs rt rd 0#5 funct ↔
      fieldOp w = 0b000000#6 ∧ fieldRs w = rs ∧ fieldRt w = rt ∧ fieldRd w = rd ∧ fieldFunct w = funct := by
  rw [eq_encodeR_iff]; simp

theorem masked_rs_iff :
    w &&& ~~~0x03E00000#32 = encodeR 0#5 rt rd shamt funct ↔
      fieldOp w = 0b000000#6 ∧ fieldRt w = rt ∧ fieldRd w = rd ∧ fieldShamt w = shamt ∧ fieldFunct w = funct := by
  rw [eq_encodeR_iff]; simp

theorem masked_rdShamt_iff :
    w &&& ~~~0x0000FFC0#32 = encodeR rs rt 0#5 0#5 funct ↔
      fieldOp w = 0b000000#6 ∧ fieldRs w = rs ∧ fieldRt w = rt ∧ fieldFunct w = funct := by
  rw [eq_encodeR_iff]; simp

theorem masked_rtRdShamt_iff :
    w &&& ~~~0x001FFFC0#32 = encodeR rs 0#5 0#5 0#5 funct ↔
      fieldOp w = 0b000000#6 ∧ fieldRs w = rs ∧ fieldFunct w = funct := by
  rw [eq_encodeR_iff]; simp

theorem masked_rtShamt_iff :
    w &&& ~~~0x001F07C0#32 = encodeR rs 0#5 rd 0#5 funct ↔
      fieldOp w = 0b000000#6 ∧ fieldRs w = rs ∧ fieldRd w = rd ∧ fieldFunct w = funct := by
  rw [eq_encodeR_iff]; simp

theorem masked_rsRtShamt_iff :
    w &&& ~~~0x03FF07C0#32 = encodeR 0#5 0#5 rd 0#5 funct ↔
      fieldOp w = 0b000000#6 ∧ fieldRd w = rd ∧ fieldFunct w = funct := by
  rw [eq_encodeR_iff]; simp

theorem masked_immediateRs_iff :
    w &&& ~~~0x03E00000#32 = encodeI op 0#5 rt imm ↔ fieldOp w = op ∧ fieldRt w = rt ∧ fieldImm w = imm := by
  rw [eq_encodeI_iff]; simp

theorem masked_immediateRt_iff :
    w &&& ~~~0x001F0000#32 = encodeI op rs 0#5 imm ↔ fieldOp w = op ∧ fieldRs w = rs ∧ fieldImm w = imm := by
  rw [eq_encodeI_iff]; simp

theorem masked_low11_iff :
    w &&& ~~~0x000007FF#32 = encodeCopMove z minor rt rd ↔
      fieldOp w = 0b0100#4 ++ z ∧ fieldRs w = minor ∧ fieldRt w = rt ∧ fieldRd w = rd := by
  rw [eq_encodeCopMove_iff]; simp

end

end Sys2Proof
end

section
/-! The tables of the decoder (R86 to R91): which of them a word is looked up in, and the words that no row gives
(R93). -/

namespace Sys2Proof

/-! ### The table of a word (R86, R87, R88, R89) -/

section
variable {v : MultVariant} {w : Word} {z : CopUnit}

theorem copUnit_cases (z : CopUnit) : z = 0#2 ∨ z = 1#2 ∨ z = 2#2 ∨ z = 3#2 := by
  revert z; decide

theorem decode_special (h : fieldOp w = 0b000000#6) : decode v w = decodeSpecial v w := by
  simp [decode, h]

theorem decode_regimm (h : fieldOp w = 0b000001#6) : decode v w = decodeRegimm w := by
  simp [decode, h]

theorem decode_cop (h : fieldOp w = 0b0100#4 ++ z) : decode v w = decodeCop z w := by
  obtain rfl | rfl | rfl | rfl := copUnit_cases z <;> simp [decode, h]

theorem encode_mfcInstr (rt : Reg) (rd : CopReg) : encode v (mfcInstr z rt rd) = encodeCopMove z 0b00000#5 rt rd := by
  obtain rfl | rfl | rfl | rfl := copUnit_cases z <;> rfl

theorem encode_mtcInstr (rt : Reg) (rd : CopReg) : encode v (mtcInstr z rt rd) = encodeCopMove z 0b00100#5 rt rd := by
  obtain rfl | rfl | rfl | rfl := copUnit_cases z <;> rfl

theorem encode_bcfInstr (offset : Imm) : encode v (bcfInstr z offset) = encodeCopBranch z 0b00000#5 offset := by
  obtain rfl | rfl | rfl | rfl := copUnit_cases z <;> rfl

theorem encode_bctInstr (offset : Imm) : encode v (bctInstr z offset) = encodeCopBranch z 0b00001#5 offset := by
  obtain rfl | rfl | rfl | rfl := copUnit_cases z <;> rfl

/-- For unit 0 the zero bits of a move are like those of any other row (R94). -/
theorem copMove_zero (w : Word) (i : Instr) : copMove 0#2 w i = withZeroField (fieldLow11 w == 0#11) i := rfl

end

/-! ### The empty cells (R93) -/

section
variable {v : MultVariant} {w : Word} {z : CopUnit}

/-- The cells of Table 3 that hold a row or another table (R86). -/
def assignedOps : List (BitVec 6) :=
  [0b000000#6, 0b000001#6, 0b000010#6, 0b000011#6, 0b000100#6, 0b000101#6, 0b000110#6, 0b000111#6,
   0b001000#6, 0b001001#6, 0b001010#6, 0b001011#6, 0b001100#6, 0b001101#6, 0b001110#6, 0b001111#6,
   0b010000#6, 0b010001#6, 0b010010#6, 0b010011#6,
   0b100000#6, 0b100001#6, 0b100010#6, 0b100011#6, 0b100100#6, 0b100101#6, 0b100110#6,
   0b101000#6, 0b101001#6, 0b101010#6, 0b101011#6, 0b101110#6]

theorem decode_of_unassignedOp (h : fieldOp w ∉ assignedOps) : decode v w = .reserved := by
  unfold decode
  split
  case h_33 => rfl
  all_goals
    rename_i hop
    exact absurd (hop ▸ by decide) h

/-- The cells of Table 4 that hold a row, as the source prints the table (R87). -/
def assignedFuncts : List (BitVec 6) :=
  [0b000000#6, 0b000010#6, 0b000011#6, 0b000100#6, 0b000110#6, 0b000111#6,
   0b001000#6, 0b001001#6, 0b001100#6, 0b001101#6, 0b001110#6,
   0b010000#6, 0b010001#6, 0b010010#6, 0b010011#6,
   0b011000#6, 0b011010#6, 0b011011#6,
   0b100000#6, 0b100001#6, 0b100010#6, 0b100011#6, 0b100100#6, 0b100101#6, 0b100110#6, 0b100111#6,
   0b101010#6, 0b101011#6]

theorem decodeSpecial_of_unassignedFunct (h : fieldFunct w ∉ assignedFuncts) :
    decodeSpecial .asPrinted w = .reserved := by
  unfold decodeSpecial
  split
  case h_17 | h_30 => rfl
  all_goals
    rename_i hf
    exact absurd (hf ▸ by decide) h

theorem decodeRegimm_of_unassignedRt (h : fieldRt w ∉ [0b00000#5, 0b00001#5, 0b10000#5, 0b10001#5]) :
    decodeRegimm w = .reserved := by
  unfold decodeRegimm
  split
  case h_5 => rfl
  all_goals
    rename_i hrt
    exact absurd h (by simp [hrt])

theorem decodeCop_of_unassignedRs (hco : fieldCo w ≠ 1#1) (h : fieldRs w ∉ [0b00000#5, 0b00100#5, 0b01000#5]) :
    decodeCop z w = copNoRow z := by
  unfold decodeCop
  rw [if_neg hco]
  split
  case h_4 => rfl
  all_goals
    rename_i hrs
    exact absurd h (by simp [hrs])

theorem decodeCop_of_unassignedRt (hrs : fieldRs w = 0b01000#5) (h : fieldRt w ∉ [0b00000#5, 0b00001#5]) :
    decodeCop z w = copNoRow z := by
  have hco : fieldCo w ≠ 1#1 := by rw [fieldCo_eq, hrs]; decide
  simp only [decodeCop, if_neg hco, hrs]
  split
  case h_3 => rfl
  all_goals
    rename_i hrt
    exact absurd h (by simp [hrt])

theorem decodeCop0Operation_of_unassigned
    (h : fieldCofun w ∉ [0b10000#25, 0b00001#25, 0b00010#25, 0b00110#25, 0b01000#25]) :
    decodeCop0Operation w = .reserved := by
  unfold decodeCop0Operation
  split
  case h_6 => rfl
  all_goals
    rename_i hf
    exact absurd h (by simp [hf])

end

/-- Settles O4: each table has no row at the cell. -/
theorem emptyCellsAreReserved : Obligations.EmptyCellsAreReserved := by
  intro w
  refine ⟨fun h => decode_of_unassignedOp ?_, fun h => decode_of_unassignedOp ?_, fun hop h => ?_, fun hop h => ?_,
    fun hop h => ?_, fun hop hrs hrt => ?_, fun hop hco h => ?_⟩
  · exact (by decide : ∀ op ∈ _, op ∉ assignedOps) _ h
  · exact (by decide : ∀ op : BitVec 6, op.extractLsb' 4 2 = 0b11#2 → op ∉ assignedOps) _ h
  · rw [decode_special hop]
    refine decodeSpecial_of_unassignedFunct (h.elim (fun h => ?_) (fun h => ?_))
    · exact (by decide : ∀ f ∈ _, f ∉ assignedFuncts) _ h
    · exact (by decide : ∀ f : BitVec 6, f.extractLsb' 4 2 = 0b11#2 → f ∉ assignedFuncts) _ h
  · rw [decode_regimm hop, decodeRegimm_of_unassignedRt h]
  · obtain ⟨hco, hrs⟩ :=
      (by decide : ∀ r ∈ _, r.extractLsb' 4 1 ≠ 1#1 ∧ r ∉ [0b00000#5, 0b00100#5, 0b01000#5]) _ h
    rw [decode_cop (z := 0#2) hop, decodeCop_of_unassignedRs (fieldCo_eq w ▸ hco) hrs]
    rfl
  · rw [decode_cop (z := 0#2) hop, decodeCop_of_unassignedRt hrs hrt]
    rfl
  · rw [decode_cop (z := 0#2) hop, decodeCop, if_pos hco, if_pos rfl, decodeCop0Operation_of_unassigned h]

end Sys2Proof
end

section
/-! The decoder and the encoder invert each other (R92), and a word is the encoder's up to its constant-zero bits
exactly where the decoder selects the instruction (R94). -/

namespace Sys2Proof.Machine

section
variable {v : MultVariant} {w : Word} {i : Instr} {z : CopUnit}

/-! ### From the encoder's word to the instruction -/

theorem decode_encode_of_noZeroBits (h : zeroBits i = 0x00000000#32) : decode v (encode v i) = .instr i := by
  cases i
  case lb | lbu | lh | lhu | lw | lwl | lwr | sb | sh | sw | swl | swr => simp [encode, decode]
  case addi | addiu | slti | sltiu | andi | ori | xori | beq | bne => simp [encode, decode]
  case j | jal => simp [encode, decode]
  case bltz | bgez | bltzal | bgezal => simp [encode, decode_regimm, decodeRegimm]
  case syscall | brk => simp [encode, decode_special, decodeSpecial]
  case bc0f | bc1f | bc2f | bc3f | bc0t | bc1t | bc2t | bc3t =>
    rw [encode, decode_cop (fieldOp_encodeCopBranch ..)]
    simp [decodeCop, bcfInstr, bctInstr]
  case mfc1 | mfc2 | mfc3 | mtc1 | mtc2 | mtc3 =>
    rw [encode, decode_cop (fieldOp_encodeCopMove ..)]
    simp [decodeCop, copMove, mfcInstr, mtcInstr]
  case rfe | tlbr | tlbwi | tlbwr | tlbp =>
    rw [encode, decode_cop (z := 0#2) (fieldOp_encodeCop0Operation _)]
    simp [decodeCop, decodeCop0Operation]
  all_goals simp [zeroBits] at h

/-- A word that is an instruction's but for its constant-zero bits selects the instruction, and the decoder tests those
bits. -/
theorem decode_of_masked (h : w &&& ~~~zeroBits i = encode v i) :
    decode v w = withZeroField (w == encode v i) i := by
  cases i
  case add | addu | sub | subu | and | or | xor | nor | slt | sltu | sllv | srlv | srav =>
    obtain ⟨hop, rfl, rfl, rfl, hf⟩ := masked_shamt_iff.mp h
    simp [decode_special, decodeSpecial, encode, eq_encodeR_iff, beq_eq_decide, hop, hf]
  case sll | srl | sra =>
    obtain ⟨hop, rfl, rfl, rfl, hf⟩ := masked_rs_iff.mp h
    simp [decode_special, decodeSpecial, encode, eq_encodeR_iff, beq_eq_decide, hop, hf]
  case mult | multu | div | divu =>
    obtain ⟨hop, rfl, rfl, hf⟩ := masked_rdShamt_iff.mp h
    cases v <;>
      simp [decode_special, decodeSpecial, encode, multFunct, multuFunct, eq_encodeR_iff, beq_eq_decide, hop, hf]
  case jr | mthi | mtlo =>
    obtain ⟨hop, rfl, hf⟩ := masked_rtRdShamt_iff.mp h
    simp [decode_special, decodeSpecial, encode, eq_encodeR_iff, beq_eq_decide, Bool.and_assoc, hop, hf]
  case jalr =>
    obtain ⟨hop, rfl, rfl, hf⟩ := masked_rtShamt_iff.mp h
    simp [decode_special, decodeSpecial, encode, eq_encodeR_iff, beq_eq_decide, hop, hf]
  case mfhi | mflo =>
    obtain ⟨hop, rfl, hf⟩ := masked_rsRtShamt_iff.mp h
    simp [decode_special, decodeSpecial, encode, eq_encodeR_iff, beq_eq_decide, Bool.and_assoc, hop, hf]
  case lui =>
    obtain ⟨hop, rfl, rfl⟩ := masked_immediateRs_iff.mp h
    simp [decode, encode, eq_encodeI_iff, beq_eq_decide, hop]
  case blez | bgtz =>
    obtain ⟨hop, rfl, rfl⟩ := masked_immediateRt_iff.mp h
    simp [decode, encode, eq_encodeI_iff, beq_eq_decide, hop]
  case mfc0 | mtc0 =>
    obtain ⟨hop, hrs, rfl, rfl⟩ := masked_low11_iff.mp h
    rw [decode_cop hop]
    simp [decodeCop, fieldCo_eq, copMove_zero, mfcInstr, mtcInstr, encode, eq_encodeCopMove_iff, beq_eq_decide, hop,
      hrs]
  all_goals
    obtain rfl := (and_not_zero w).symm.trans h
    rw [decode_encode_of_noZeroBits rfl, beq_self_eq_true]
    rfl

/-- The encoder leaves the constant-zero bits zero. -/
theorem encode_masked (v : MultVariant) (i : Instr) : encode v i &&& ~~~zeroBits i = encode v i := by
  cases i
  case add | addu | sub | subu | and | or | xor | nor | slt | sltu | sllv | srlv | srav =>
    exact masked_shamt_iff.mpr (by simp [encode])
  case sll | srl | sra => exact masked_rs_iff.mpr (by simp [encode])
  case mult | multu | div | divu => exact masked_rdShamt_iff.mpr (by simp [encode])
  case jr | mthi | mtlo => exact masked_rtRdShamt_iff.mpr (by simp [encode])
  case jalr => exact masked_rtShamt_iff.mpr (by simp [encode])
  case mfhi | mflo => exact masked_rsRtShamt_iff.mpr (by simp [encode])
  case lui => exact masked_immediateRs_iff.mpr (by simp [encode])
  case blez | bgtz => exact masked_immediateRt_iff.mpr (by simp [encode])
  case mfc0 | mtc0 => exact masked_low11_iff.mpr (by simp [encode])
  all_goals exact and_not_zero _

/-- Settles O1: the encoder's word has its constant-zero bits zero, so the decoder's test of them passes. -/
theorem decodeInvertsEncode : Obligations.DecodeInvertsEncode := by
  intro v i
  rw [decode_of_masked (encode_masked v i), beq_self_eq_true]
  rfl

/-! ### From the instruction to the word -/

/-- What the decoder selects for a word is an instruction whose word it is but for constant-zero bits. -/
def Selects (v : MultVariant) (w : Word) : Decoded → Prop
  | .instr i | .mustBeZero i => w &&& ~~~zeroBits i = encode v i
  | .reserved | .copUnassigned _ => True

theorem withZeroField_selects {b : Bool} (h : w &&& ~~~zeroBits i = encode v i) :
    Selects v w (withZeroField b i) := by
  cases b <;> exact h

theorem Selects.of_encode (h : w = encode v i) : Selects v w (.instr i) :=
  h ▸ encode_masked v i

theorem copNoRow_selects : Selects v w (copNoRow z) := by
  fun_cases copNoRow <;> trivial

theorem copMove_selects {minor rt rd : BitVec 5} (hi : encode v i = encodeCopMove z minor rt rd)
    (hz : z = 0#2 → zeroBits i = 0x000007FF#32) (hop : fieldOp w = 0b0100#4 ++ z) (hrs : fieldRs w = minor)
    (hrt : fieldRt w = rt) (hrd : fieldRd w = rd) : Selects v w (copMove z w i) := by
  fun_cases copMove
  case case1 hlow =>
    exact .of_encode (hi ▸ eq_encodeCopMove_iff.mpr ⟨hop, hrs, hrt, hrd, by simpa using hlow⟩)
  case case2 hz0 =>
    rw [Selects, hz hz0, hi]
    exact masked_low11_iff.mpr ⟨hop, hrs, hrt, hrd⟩
  case case3 => trivial

theorem decodeSpecial_selects (hop : fieldOp w = 0b000000#6) : Selects v w (decodeSpecial v w) := by
  fun_cases decodeSpecial
  -- SLL, SRL, SRA
  case case1 hf | case2 hf | case3 hf => exact withZeroField_selects (masked_rs_iff.mpr ⟨hop, rfl, rfl, rfl, hf⟩)
  -- SLLV, SRLV, SRAV
  case case4 hf | case5 hf | case6 hf => exact withZeroField_selects (masked_shamt_iff.mpr ⟨hop, rfl, rfl, rfl, hf⟩)
  -- JR, MTHI, MTLO
  case case7 hf | case14 hf | case16 hf => exact withZeroField_selects (masked_rtRdShamt_iff.mpr ⟨hop, rfl, hf⟩)
  -- JALR
  case case8 hf => exact withZeroField_selects (masked_rtShamt_iff.mpr ⟨hop, rfl, rfl, hf⟩)
  -- SYSCALL, BREAK
  case case9 hf | case10 hf => exact .of_encode (eq_encodeCode_iff.mpr ⟨hop, rfl, hf⟩)
  -- MULT, MULTU, DIV, DIVU
  case case11 hf | case17 hf | case18 hf | case20 hf | case21 hf | case22 hf =>
    exact withZeroField_selects (masked_rdShamt_iff.mpr ⟨hop, rfl, rfl, hf⟩)
  -- MFHI, MFLO
  case case13 hf | case15 hf => exact withZeroField_selects (masked_rsRtShamt_iff.mpr ⟨hop, rfl, hf⟩)
  -- the empty cells
  case case12 | case19 | case33 => trivial
  -- ADD to SLTU
  all_goals
    rename_i hf
    exact withZeroField_selects (masked_shamt_iff.mpr ⟨hop, rfl, rfl, rfl, hf⟩)

theorem decodeRegimm_selects (hop : fieldOp w = 0b000001#6) : Selects v w (decodeRegimm w) := by
  fun_cases decodeRegimm
  case case5 => trivial
  all_goals
    rename_i hrt
    exact .of_encode (eq_encodeI_iff.mpr ⟨hop, rfl, hrt, rfl⟩)

theorem decodeCop0Operation_selects (hop : fieldOp w = 0b010000#6) (hco : fieldCo w = 1#1) :
    Selects v w (decodeCop0Operation w) := by
  fun_cases decodeCop0Operation
  case case6 => trivial
  all_goals
    rename_i hf
    exact .of_encode (eq_encodeCop0Operation_iff.mpr ⟨hop, hco, hf⟩)

theorem decodeCop_selects (hop : fieldOp w = 0b0100#4 ++ z) : Selects v w (decodeCop z w) := by
  fun_cases decodeCop
  case case1 hco hz => exact decodeCop0Operation_selects (by rw [hop, hz]; rfl) hco
  case case2 => trivial
  case case3 hrs =>
    exact copMove_selects (encode_mfcInstr _ _) (by rintro rfl; rfl) hop hrs rfl rfl
  case case4 hrs =>
    exact copMove_selects (encode_mtcInstr _ _) (by rintro rfl; rfl) hop hrs rfl rfl
  case case5 hrs hrt =>
    exact .of_encode ((encode_bcfInstr _).symm ▸ eq_encodeCopBranch_iff.mpr ⟨hop, hrs, hrt, rfl⟩)
  case case6 hrs hrt =>
    exact .of_encode ((encode_bctInstr _).symm ▸ eq_encodeCopBranch_iff.mpr ⟨hop, hrs, hrt, rfl⟩)
  case case7 | case8 => exact copNoRow_selects

theorem decode_selects (v : MultVariant) (w : Word) : Selects v w (decode v w) := by
  fun_cases decode
  case case1 hop => exact decodeSpecial_selects hop
  case case2 hop => exact decodeRegimm_selects hop
  case case17 hop | case18 hop | case19 hop | case20 hop => exact decodeCop_selects hop
  -- J, JAL
  case case3 hop | case4 hop => exact .of_encode (eq_encodeJ_iff.mpr ⟨hop, rfl⟩)
  -- BLEZ, BGTZ
  case case7 hop | case8 hop => exact withZeroField_selects (masked_immediateRt_iff.mpr ⟨hop, rfl, rfl⟩)
  -- LUI
  case case16 hop => exact withZeroField_selects (masked_immediateRs_iff.mpr ⟨hop, rfl, rfl⟩)
  -- the empty cells
  case case33 => trivial
  -- the other I-type rows
  all_goals
    rename_i hop
    exact .of_encode (eq_encodeI_iff.mpr ⟨hop, rfl, rfl, rfl⟩)

/-! ### Both directions -/

theorem decode_eq_instr_iff : decode v w = .instr i ↔ w = encode v i := by
  refine ⟨fun h => ?_, fun h => h ▸ decodeInvertsEncode v i⟩
  have hm : Selects v w (.instr i) := h ▸ decode_selects v w
  rw [decode_of_masked hm, withZeroField] at h
  split at h
  · exact beq_iff_eq.mp ‹_›
  · cases h

theorem decode_eq_mustBeZero_iff :
    decode v w = .mustBeZero i ↔ w ≠ encode v i ∧ w &&& ~~~zeroBits i = encode v i := by
  constructor
  · intro h
    have hm : Selects v w (.mustBeZero i) := h ▸ decode_selects v w
    refine ⟨fun he => ?_, hm⟩
    rw [decode_eq_instr_iff.mpr he] at h
    cases h
  · rintro ⟨hne, hm⟩
    rw [decode_of_masked hm, beq_false_of_ne hne]
    rfl

/-- Settles O2: the word is the encoder's but for its constant-zero bits (`decode_selects`), and those are zero. -/
theorem encodeInvertsDecode : Obligations.EncodeInvertsDecode :=
  fun _ _ _ h => (decode_eq_instr_iff.mp h).symm

/-! ### What the words that are no instruction do (R93, R94, R287) -/

theorem runWord_of_reserved {s : State} (h : decode s.cfg.multVariant w = .reserved) : runWord w s = raise .ri s := by
  rw [runWord, h]

theorem runWord_of_mustBeZero {s : State} (h : decode s.cfg.multVariant w = .mustBeZero i) :
    runWord w s = runMustBeZero i s := by
  rw [runWord, h]

/-- Settles O5: the words by `decode_eq_mustBeZero_iff`, the entry by `raise_enters`. -/
theorem reservedAndMustBeZeroWords : Obligations.ReservedAndMustBeZeroWords := by
  intro w s
  refine ⟨fun h => runWord_of_reserved h ▸ raise_enters .ri s, fun i => decode_eq_mustBeZero_iff, fun i hne hm => ?_⟩
  rw [runWord_of_mustBeZero (decode_eq_mustBeZero_iff.mpr ⟨hne, hm⟩), runMustBeZero]
  refine ⟨fun hp => by rw [hp], fun hp => by rw [hp], fun hp => ?_⟩
  rw [hp]
  exact raise_enters .ri s

/-! ### Words printed in the rules -/

theorem encodes_of_encode (h : ∀ v, encode v i = w) : Encodes w i :=
  fun v => decode_eq_instr_iff.mpr (h v).symm

/-- Settles O3: each word is the encoder's word of its instruction. -/
theorem printedWordsDecode : Obligations.PrintedWordsDecode :=
  ⟨encodes_of_encode fun _ => rfl, encodes_of_encode fun _ => rfl, encodes_of_encode fun _ => rfl,
    encodes_of_encode fun _ => rfl, encodes_of_encode fun _ => rfl, encodes_of_encode fun _ => rfl,
    encodes_of_encode fun _ => rfl, encodes_of_encode fun _ => rfl, encodes_of_encode fun _ => rfl,
    decode_eq_instr_iff.mpr rfl, decode_eq_instr_iff.mpr rfl, decode_eq_instr_iff.mpr rfl,
    decode_eq_instr_iff.mpr rfl⟩

end

end Sys2Proof.Machine
end

section
/-! LWL and LWR where their checks pass (R116, R117): the bytes of the merged value (R122), and the big-endian pair of
the two, which loads an unaligned word. -/

namespace Sys2Proof.Machine

/-! ### The merged value (R116, R117, R122) -/

/-- The value that LWL at an effective address delivers to rt (R116). -/
def State.lwlValue (s : State) (rt : Reg) (addr : Word) : Word :=
  mergeLeft (laneIndex s.cfg.bigEndian addr)
    (Memory.readWord s.mem s.cfg.bigEndian (alignWord (biu s.cfg addr))) (s.settled rt)

/-- The value that LWR at an effective address delivers to rt (R117). -/
def State.lwrValue (s : State) (rt : Reg) (addr : Word) : Word :=
  mergeRight (laneIndex s.cfg.bigEndian addr)
    (Memory.readWord s.mem s.cfg.bigEndian (alignWord (biu s.cfg addr))) (s.settled rt)

section
variable {s : State} {base rt : Reg} {off : Imm} {addr : Word}

theorem exec_lwl_admitted (ha : s.dataAddr base off = addr)
    (h : s.Admits .load false addr
      (laneBytes s.cfg.bigEndian (biu s.cfg addr) 0 (laneIndex s.cfg.bigEndian addr))) :
    exec (.lwl base rt off) s = .next (s.retireLoad rt (s.lwlValue rt addr)) := by
  subst ha
  exact loadAccess_admitted rt _ h

theorem exec_lwr_admitted (ha : s.dataAddr base off = addr)
    (h : s.Admits .load false addr
      (laneBytes s.cfg.bigEndian (biu s.cfg addr) (laneIndex s.cfg.bigEndian addr) 3)) :
    exec (.lwr base rt off) s = .next (s.retireLoad rt (s.lwrValue rt addr)) := by
  subst ha
  exact loadAccess_admitted rt _ h

end

theorem laneIndex_le_three (be : Bool) (addr : Word) : laneIndex be addr ≤ 3 := by
  have hl := laneIndex_eq be addr
  split at hl <;> omega

/-- The bytes of LWL's value from the most significant on: those of the aligned word from the addressed one on, as far
as the word goes, then those of the old value (R122). -/
theorem State.lwlValue_byte (s : State) (rt : Reg) (addr : Word) {j : Nat} (hj : j < 4) :
    (s.lwlValue rt addr).extractLsb' (8 * (3 - j)) 8 =
      if s.cfg.bigEndian then
        (if addr.toNat % 4 + j < 4
          then Memory.read s.mem (alignWord (biu s.cfg addr) + BitVec.ofNat 32 (addr.toNat % 4 + j)).toNat
          else (s.settled rt).extractLsb' (8 * (3 - j)) 8)
      else
        (if j ≤ addr.toNat % 4
          then Memory.read s.mem (alignWord (biu s.cfg addr) + BitVec.ofNat 32 (addr.toNat % 4 - j)).toNat
          else (s.settled rt).extractLsb' (8 * (3 - j)) 8) := by
  rw [State.lwlValue, mergeLeft_byte (laneIndex_le_three _ _) _ _ hj, laneIndex_eq]
  cases s.cfg.bigEndian
  all_goals simp only [if_true, Bool.false_eq_true, if_false]
  case false => exact ite_congr rfl (fun _ => readWord_lane _ false _ (by omega)) fun _ => rfl
  case true =>
    refine ite_congr (propext (by omega)) (fun _ => ?_) fun _ => rfl
    rw [readWord_lane _ true _ (by omega), if_pos rfl, show 3 - (3 - addr.toNat % 4 - j) = addr.toNat % 4 + j by omega]

/-- The bytes of LWR's value from the least significant on: those of the aligned word from the addressed one back, as
far as the word goes, then those of the old value (R122). -/
theorem State.lwrValue_byte (s : State) (rt : Reg) (addr : Word) {j : Nat} (hj : j < 4) :
    (s.lwrValue rt addr).extractLsb' (8 * j) 8 =
      if s.cfg.bigEndian then
        (if j ≤ addr.toNat % 4
          then Memory.read s.mem (alignWord (biu s.cfg addr) + BitVec.ofNat 32 (addr.toNat % 4 - j)).toNat
          else (s.settled rt).extractLsb' (8 * j) 8)
      else
        (if addr.toNat % 4 + j < 4
          then Memory.read s.mem (alignWord (biu s.cfg addr) + BitVec.ofNat 32 (addr.toNat % 4 + j)).toNat
          else (s.settled rt).extractLsb' (8 * j) 8) := by
  rw [State.lwrValue, mergeRight_byte (laneIndex_le_three _ _) _ _ hj, laneIndex_eq]
  cases s.cfg.bigEndian
  all_goals simp only [if_true, Bool.false_eq_true, if_false]
  case false => exact ite_congr (propext (by omega)) (fun _ => readWord_lane _ false _ (by omega)) fun _ => rfl
  case true =>
    refine ite_congr (propext (by omega)) (fun _ => ?_) fun _ => rfl
    rw [readWord_lane _ true _ (by omega), if_pos rfl, show 3 - (3 - addr.toNat % 4 + j) = addr.toNat % 4 - j by omega]

/-- Settles O24: each load delivers its merged value, whose bytes are those of R122. -/
theorem unalignedLoadResults : Obligations.UnalignedLoadResults := by
  rintro s base rt off addr _ _ haddr rfl rfl
  exact ⟨⟨encodes_of_accessOf (s := s) rfl rfl, fun h => ⟨_, _, exec_lwl_admitted haddr.symm h,
      s.retireLoad_deliversTo rt _, fun _ => s.lwlValue_byte rt addr⟩⟩,
    ⟨encodes_of_accessOf (s := s) rfl rfl, fun h => ⟨_, _, exec_lwr_admitted haddr.symm h,
      s.retireLoad_deliversTo rt _, fun _ => s.lwrValue_byte rt addr⟩⟩⟩

/-! ### The big-endian pair (R116, R117) -/

theorem alignWord_add (p : Word) (j : Nat) :
    alignWord p + BitVec.ofNat 32 (p.toNat % 4 + j) = p + BitVec.ofNat 32 j := by
  have hp := alignWord_toNat p
  unfold wordAddr at hp
  apply BitVec.eq_of_toNat_eq
  simp only [BitVec.toNat_add, BitVec.toNat_ofNat]
  omega

theorem alignWord_add_sub {p : Word} {j : Nat} (hj : j ≤ p.toNat % 4) :
    alignWord p + BitVec.ofNat 32 (p.toNat % 4 - j) = p - BitVec.ofNat 32 j := by
  have hp := alignWord_toNat p
  unfold wordAddr at hp
  apply BitVec.eq_of_toNat_eq
  simp only [BitVec.toNat_add, BitVec.toNat_sub, BitVec.toNat_ofNat]
  omega

section
variable {s : State} {addr p : Word} (hbe : s.cfg.bigEndian = true) (hp : biu s.cfg addr = p)
  (hlow : p.toNat % 4 = addr.toNat % 4) (rt : Reg) {j : Nat}
include hbe hp hlow

/-- Where the BIU keeps the low two address bits, LWL's bytes are those from the mapped address on. -/
theorem State.lwlValue_byte_bigEndian (hj : addr.toNat % 4 + j < 4) :
    (s.lwlValue rt addr).extractLsb' (8 * (3 - j)) 8 = Memory.read s.mem (p + BitVec.ofNat 32 j).toNat := by
  rw [s.lwlValue_byte rt addr (by omega), if_pos hbe, if_pos hj, hp, ← hlow, alignWord_add]

/-- And LWR's are those from the mapped address back. -/
theorem State.lwrValue_byte_bigEndian (hj : j < 4) :
    (s.lwrValue rt addr).extractLsb' (8 * j) 8 =
      if j ≤ addr.toNat % 4 then Memory.read s.mem (p - BitVec.ofNat 32 j).toNat
      else (s.settled rt).extractLsb' (8 * j) 8 := by
  rw [s.lwrValue_byte rt addr hj, if_pos hbe, hp]
  exact ite_congr rfl (fun h => by rw [← hlow] at h ⊢; rw [alignWord_add_sub h]) fun _ => rfl

end

section
variable {s : State} {rt : Reg} (v : Word)

/-- The merge operand of an instruction directly after a load of its rt is the value loaded (R116). -/
theorem State.settled_retireLoad_self (hrt : rt ≠ 0#5) : (s.retireLoad rt v).settled rt = v :=
  State.settled_pending hrt (by simp [hrt])

theorem State.user_retireLoad (hs : s.mtcShadow = none) : (s.retireLoad rt v).user = s.user := by
  rw [State.user_of_noShadow (s.retireLoad_mtcShadow rt v), State.retireLoad_sr, State.user_of_noShadow hs]

theorem State.readRs_of_notPending {q : Reg} (h : s.isPending q = false) : s.readRs q = s.gprRead q :=
  State.regRead_notPending (fun v hv => by simp [State.isPending, hv] at h) _

/-- A register that no load is pending for reads the same after a load of another. -/
theorem State.readRs_retireLoad {q : Reg} (hq : q ≠ rt) (h : s.isPending q = false) :
    (s.retireLoad rt v).readRs q = s.gprRead q := by
  have hnone : ∀ w, s.loadPending ≠ some (q, w) := fun w hw => by simp [State.isPending, hw] at h
  rw [State.readRs_of_notPending, (s.retireLoad_deliversTo rt v).others, if_neg hq, State.settled_notPending hnone]
  by_cases hrt : rt = 0#5 <;> simp [State.isPending, hrt, hq.symm]

end

section
variable {s : State} {rt : Reg} {addr p : Word} (hbe : s.cfg.bigEndian = true) (hrt : rt ≠ 0#5)
  (hp : biu s.cfg addr = p) (hlow : p.toNat % 4 = addr.toNat % 4) (hp3 : biu s.cfg (addr + 3#32) = p + 3#32)
include hbe hrt hp hlow hp3

/-- Byte i from the most significant on comes from LWR where it reaches, and from the LWL before it elsewhere. -/
theorem State.lwrValue_after_lwl_byte {i : Nat} (hi : i < 4) :
    byteOf ((s.retireLoad rt (s.lwlValue rt addr)).lwrValue rt (addr + 3#32)) (3 - i) =
      Memory.read s.mem (p + BitVec.ofNat 32 i).toNat := by
  have hlow3 : (p + 3#32).toNat % 4 = (addr + 3#32).toNat % 4 := by bv_omega
  have hback : p + 3#32 - BitVec.ofNat 32 (3 - i) = p + BitVec.ofNat 32 i := by bv_omega
  rw [byteOf, State.lwrValue_byte_bigEndian (p := p + 3#32) (by simpa using hbe) (by simpa using hp3) hlow3 rt
    (by omega), hback, State.retireLoad_mem, State.settled_retireLoad_self _ hrt]
  split
  · rfl
  · exact State.lwlValue_byte_bigEndian hbe hp hlow rt (by bv_omega)

theorem State.lwrValue_after_lwl :
    (s.retireLoad rt (s.lwlValue rt addr)).lwrValue rt (addr + 3#32) =
      Memory.read s.mem p.toNat ++ Memory.read s.mem (p + 1#32).toNat ++ Memory.read s.mem (p + 2#32).toNat ++
        Memory.read s.mem (p + 3#32).toNat := by
  have hbyte {i : Nat} (hi : i < 4) := State.lwrValue_after_lwl_byte hbe hrt hp hlow hp3 hi
  have h0 := hbyte (i := 0) (by decide)
  rw [BitVec.add_zero] at h0
  rw [← h0, ← hbyte (i := 1) (by decide), ← hbyte (i := 2) (by decide), ← hbyte (i := 3) (by decide)]
  exact (byteOf_append_word _).symm

end

/-- Settles O25: LWR merges into the value that LWL has left pending, and between them they reach all four bytes. -/
theorem unalignedPairLoadsWord : Obligations.UnalignedPairLoadsWord := by
  intro s base rt off addr p hbe hs hrt hbase hpend haddr hoff hp hlow hp3 hleft hright
  have hlow : p.toNat % 4 = addr.toNat % 4 := by simpa using congrArg BitVec.toNat hlow
  have haddr0 : s.dataAddr base off = addr := by
    rw [haddr, State.dataAddr, State.readRs_of_notPending hpend]
    rfl
  have haddr3 : (s.retireLoad rt (s.lwlValue rt addr)).dataAddr base (off + 3#16) = addr + 3#32 := by
    rw [State.dataAddr, s.readRs_retireLoad _ hbase hpend, effectiveAddress, signExtendImm, hoff, haddr]
    exact add_right_comm _ _ _
  have hright := hright.of_same (s.retireLoad_cfg rt (s.lwlValue rt addr)) (State.user_retireLoad _ hs)
  refine ⟨_, _, exec_lwl_admitted haddr0 (by rwa [hbe, ← hp]),
    exec_lwr_admitted haddr3 (by rwa [State.retireLoad_cfg, hbe, hp3]), ?_⟩
  rw [State.retireLoad_loadPending, if_neg hrt, State.lwrValue_after_lwl hbe hrt hp.symm hlow hp3]

end Sys2Proof.Machine
end

section
/-! The computational instructions but for multiply and divide (R140 to R164): what each writes, and where ADD, ADDI and
SUB take the Overflow Exception instead (R289). -/

namespace Sys2Proof.Machine

/-! ### A result in a register, nothing else changed (R140) -/

section

variable {w : Word} {i : Instr} {s : State} {rd : Reg} {v : Word}

/-- The word of an instruction whose whole effect is `retireReg`, and that effect. -/
theorem encodes_and_computes (hw : ∀ m, encode m i = w) (hx : exec i s = .next (s.retireReg rd v)) :
    Encodes w i ∧ ∃ t, exec i s = .next t ∧ ComputesInto s t rd v :=
  ⟨encodes_of_encode hw, _, hx, s.retireReg_computesInto rd v⟩

/-- The same where the result is known by a property. -/
theorem encodes_and_computes_of {P : Word → Prop} (hw : ∀ m, encode m i = w)
    (hx : exec i s = .next (s.retireReg rd v)) (hv : P v) :
    Encodes w i ∧ ∃ t v, exec i s = .next t ∧ ComputesInto s t rd v ∧ P v :=
  ⟨encodes_of_encode hw, _, v, hx, s.retireReg_computesInto rd v, hv⟩

end

/-- Settles O12: the effect of ADDU is `retireReg` of the sum. -/
theorem adduResult : Obligations.AdduResult := fun _ _ _ _ =>
  encodes_and_computes (fun _ => rfl) rfl

/-! ### Comparisons (R155 to R158) -/

theorem boolWord_ltSigned (a b : Word) : boolWord (ltSigned a b) = if a.toInt < b.toInt then 1#32 else 0#32 := by
  simp only [boolWord, ltSigned, decide_eq_true_eq]

theorem boolWord_ltUnsigned (a b : Word) : boolWord (ltUnsigned a b) = if a.toNat < b.toNat then 1#32 else 0#32 := by
  simp only [boolWord, ltUnsigned, decide_eq_true_eq]

/-- Settles O13: each effect is `retireReg`; SLT and SLTU by their comparisons. -/
theorem registerComputationResults : Obligations.RegisterComputationResults := by
  intro s rs rt rd
  rw [← boolWord_ltSigned, ← boolWord_ltUnsigned]
  refine ⟨?_, ?_, ?_, ?_, ?_, ?_, ?_⟩ <;> exact encodes_and_computes (fun _ => rfl) rfl

/-- Settles O14: each effect is `retireReg`; SLTI and SLTIU by their comparisons. -/
theorem immediateComputationResults : Obligations.ImmediateComputationResults := by
  intro s rs rt imm
  rw [← boolWord_ltSigned, ← boolWord_ltUnsigned]
  refine ⟨?_, ?_, ?_, ?_, ?_, ?_, ?_⟩ <;> exact encodes_and_computes (fun _ => rfl) rfl

/-! ### Shifts (R159 to R164) -/

theorem shiftLeft_getLsbD (v : Word) (n : BitVec 5) {i : Nat} (hi : i < 32) :
    (shiftLeft v n).getLsbD i = if i < n.toNat then false else v.getLsbD (i - n.toNat) := by
  rw [shiftLeft, BitVec.getLsbD_shiftLeft]
  by_cases h : i < n.toNat <;> simp [h, hi]

theorem shiftRightLogical_getLsbD (v : Word) (n : BitVec 5) (i : Nat) :
    (shiftRightLogical v n).getLsbD i = if i + n.toNat < 32 then v.getLsbD (i + n.toNat) else false := by
  rw [shiftRightLogical, BitVec.getLsbD_ushiftRight, Nat.add_comm]
  split
  · rfl
  · exact BitVec.getLsbD_of_ge _ _ (by omega)

/-- The bits shifted in are the sign bit. -/
theorem shiftRightArith_getLsbD (v : Word) (n : BitVec 5) {i : Nat} (hi : i < 32) :
    (shiftRightArith v n).getLsbD i = v.getLsbD (if i + n.toNat < 32 then i + n.toNat else 31) := by
  rw [shiftRightArith, BitVec.getLsbD_sshiftRight, Nat.add_comm n.toNat]
  by_cases h : i + n.toNat < 32 <;> simp [h, hi, BitVec.msb_eq_getLsbD_last]

theorem shiftAmount_toNat (v : Word) : (shiftAmount v).toNat = v.toNat % 32 :=
  BitVec.extractLsb'_toNat 0 5 v

/-- Settles O15: three shifts, each by a constant amount and by the low five bits of rs. -/
theorem shiftResults : Obligations.ShiftResults := by
  intro s rs rt rd sa
  rw [← shiftAmount_toNat]
  exact ⟨encodes_and_computes_of (fun _ => rfl) rfl fun _ => shiftLeft_getLsbD _ sa,
    encodes_and_computes_of (fun _ => rfl) rfl fun i _ => shiftRightLogical_getLsbD _ sa i,
    encodes_and_computes_of (fun _ => rfl) rfl fun _ => shiftRightArith_getLsbD _ sa,
    encodes_and_computes_of (fun _ => rfl) rfl fun _ => shiftLeft_getLsbD _ _,
    encodes_and_computes_of (fun _ => rfl) rfl fun i _ => shiftRightLogical_getLsbD _ _ i,
    encodes_and_computes_of (fun _ => rfl) rfl fun _ => shiftRightArith_getLsbD _ _⟩

/-! ### Overflow (R12, R141, R142, R145, R289) -/

/-- A 32-bit two's complement number is its own remainder. -/
theorem bmod_of_fits {n : Int} (hl : -2147483648 ≤ n) (hu : n ≤ 2147483647) : n.bmod (2 ^ 32) = n :=
  Int.bmod_eq_of_le (by omega) (by omega)

theorem toInt_add_of_fits {a b : Word} (hl : -2147483648 ≤ a.toInt + b.toInt) (hu : a.toInt + b.toInt ≤ 2147483647) :
    (a + b).toInt = a.toInt + b.toInt :=
  (BitVec.toInt_add a b).trans (bmod_of_fits hl hu)

theorem toInt_sub_of_fits {a b : Word} (hl : -2147483648 ≤ a.toInt - b.toInt) (hu : a.toInt - b.toInt ≤ 2147483647) :
    (a - b).toInt = a.toInt - b.toInt :=
  BitVec.toInt_sub.trans (bmod_of_fits hl hu)

theorem signExtendImm_toInt (imm : Imm) : (signExtendImm imm).toInt = imm.toInt :=
  BitVec.toInt_signExtend_of_le (by decide)

/-- An `overflowOr` whose predicate is the range of the exact result n: the result n, or the exception. -/
theorem overflowOr_result {i : Instr} {s : State} {rd : Reg} {ovf : Bool} {v : Word} {n : Int}
    (hx : exec i s = overflowOr ovf rd v s) (ho : ovf = true ↔ n < -2147483648 ∨ 2147483647 < n)
    (hv : -2147483648 ≤ n → n ≤ 2147483647 → v.toInt = n) :
    (-2147483648 ≤ n ∧ n ≤ 2147483647 → ∃ t v, exec i s = .next t ∧ ComputesInto s t rd v ∧ v.toInt = n) ∧
    (n < -2147483648 ∨ 2147483647 < n → ∃ t, exec i s = .next t ∧ Enters .ov s t) := by
  rw [hx]
  constructor
  · rintro ⟨hl, hu⟩
    have hno : ¬ ovf = true := by rw [ho]; omega
    exact ⟨_, v, if_neg hno, s.retireReg_computesInto rd v, hv hl hu⟩
  · intro hout
    rw [overflowOr, if_pos (ho.mpr hout)]
    exact raise_enters .ov s

/-- Settles O17: the three instructions are `overflowOr` of R12's predicates, whose range form says what fits. -/
theorem addSubResultOrOverflow : Obligations.AddSubResultOrOverflow := by
  intro s rs rt rd imm
  refine ⟨⟨encodes_of_encode fun _ => rfl, ?add⟩, ⟨encodes_of_encode fun _ => rfl, ?addi⟩,
    ⟨encodes_of_encode fun _ => rfl, ?sub⟩⟩
  case add =>
    rintro _ rfl
    exact overflowOr_result rfl (ovfAdd_iff_range _ _) toInt_add_of_fits
  case addi =>
    rw [← signExtendImm_toInt]
    rintro _ rfl
    exact overflowOr_result rfl (ovfAdd_iff_range _ _) toInt_add_of_fits
  case sub =>
    rintro _ rfl
    exact overflowOr_result rfl (ovfSub_iff_range _ _) toInt_sub_of_fits

end Sys2Proof.Machine
end

section
/-! Multiply and divide (R180 to R187): the double result that each writes to HI and LO, and the corners of division,
where `DIV_NUMERICS` decides. -/

namespace Sys2Proof.Machine

/-! ### The words (R180) -/

/-- The rd and shamt fields as the one zero field of ten bits that the pages print (R183). -/
theorem encodeR_rdShamt_zero (rs rt : Reg) (funct : BitVec 6) :
    encodeR rs rt 0#5 0#5 funct = 0b000000#6 ++ rs ++ rt ++ 0b0000000000#10 ++ funct :=
  congrArg (· ++ funct) (BitVec.append_assoc (x₁ := 0b000000#6 ++ rs ++ rt) (x₂ := 0#5) (x₃ := 0#5))

/-! ### Completion with a double result -/

/-- Completion in sequence with a write of HI and LO changes nothing else (R24). -/
theorem State.retireSeq_hiLo_proceeds (s : State) (h l : Word) (fresh : Bool) :
    Proceeds s { s.retireSeq with hi := h, lo := l, mdFresh := fresh } where
  registers q := (State.gprRead_congr rfl q).trans (s.gprRead_retireSeq q)
  noPending := by simp
  goes := ⟨by simp, by simp, by simp⟩
  memory := ⟨fun a => by simp, by simp⟩
  inputs := ⟨by simp, by simp, by simp, by simp, by simp⟩
  aged := ⟨by simp, by simp⟩
  notMem := by simp
  shadow := by simp

/-- A multiply or divide outside the windows of MFHI and MFLO completes with its result in HI and LO (R180, R344). -/
theorem completes_of_writeDouble {i : Instr} {s : State} {d : Word × Word} {P : State → Prop}
    (hx : exec i s = writeDouble d s) (hhi : s.mfHi = none) (hlo : s.mfLo = none)
    (hP : ∀ t : State, t.hi = d.1 → t.lo = d.2 → P t) :
    ∃ t, exec i s = .next t ∧ Proceeds s t ∧ SameStatus s t ∧ SameCop s t ∧ t.mdFresh = true ∧ P t :=
  ⟨_, hx.trans (writeDouble_next hhi hlo d), s.retireSeq_hiLo_proceeds _ _ _, ⟨by simp, by simp⟩,
    ⟨by simp, by simp, by simp⟩, rfl, hP _ rfl rfl⟩

/-! ### The product (R183, R184) -/

theorem splitDouble_append (d : BitVec 64) : (splitDouble d).1 ++ (splitDouble d).2 = d :=
  BitVec.extractLsb'_append_extractLsb'

/-- No product of two 32-bit two's complement numbers is too large for 64 bits. -/
theorem multSigned_toInt (a b : Word) : (multSigned a b).toInt = a.toInt * b.toInt := by
  have hl : -2 ^ 62 ≤ a.toInt * b.toInt := BitVec.le_toInt_mul_toInt
  have hu : a.toInt * b.toInt ≤ 2 ^ 62 := BitVec.toInt_mul_toInt_le
  exact BitVec.toInt_ofInt_eq_self (by decide) (by omega) (by omega)

theorem multUnsigned_toNat (a b : Word) : (multUnsigned a b).toNat = a.toNat * b.toNat := by
  have hlt : a.toNat * b.toNat < 2 ^ 32 * 2 ^ 32 := Nat.mul_lt_mul'' a.isLt b.isLt
  exact (BitVec.toNat_ofNat _ 64).trans (Nat.mod_eq_of_lt hlt)

/-- Settles O18: HI and LO are the halves of the double result, which is the exact product. -/
theorem multiplyResults : Obligations.MultiplyResults := by
  intro s rs rt
  simp only [← encodeR_rdShamt_zero]
  refine ⟨decode_eq_instr_iff.mpr rfl, decode_eq_instr_iff.mpr rfl, fun hhi hlo => ⟨?mult, ?multu⟩⟩
  case mult =>
    refine completes_of_writeDouble rfl hhi hlo fun t hth htl => ?_
    rw [hth, htl, splitDouble_append, multSigned_toInt]
  case multu =>
    refine completes_of_writeDouble rfl hhi hlo fun t hth htl => ?_
    rw [hth, htl, splitDouble_append, multUnsigned_toNat]

/-! ### Quotient and remainder (R185, R186) -/

section
variable {n : DivNumerics} {undef : Word × Word} {a b : Word}

/-- Outside R187's corners DIV is the division of two's complement words that rounds toward zero. -/
theorem divSigned_of_noCorner (hb : b ≠ 0#32) (hc : ¬ (a = 0x80000000#32 ∧ b = 0xFFFFFFFF#32)) :
    divSigned n undef a b = (a.srem b, a.sdiv b) := by
  have hq : (a.sdiv b).toInt = a.toInt.tdiv b.toInt :=
    BitVec.toInt_sdiv_of_ne_or_ne a b (not_and_or.mp hc)
  rw [divSigned, if_neg hb, if_neg hc, ← BitVec.toInt_srem, ← hq, BitVec.ofInt_toInt, BitVec.ofInt_toInt]

theorem divUnsigned_of_ne_zero (hb : b ≠ 0#32) : divUnsigned n undef a b = (a % b, a / b) := by
  rw [divUnsigned, if_neg hb, BitVec.umod_def, BitVec.udiv_def]

theorem sdiv_mul_add_srem (hc : ¬ (a = 0x80000000#32 ∧ b = 0xFFFFFFFF#32)) :
    (a.sdiv b).toInt * b.toInt + (a.srem b).toInt = a.toInt := by
  rw [BitVec.toInt_sdiv_of_ne_or_ne a b (not_and_or.mp hc), BitVec.toInt_srem, Int.tdiv_mul_add_tmod]

theorem srem_natAbs_lt (hb : b ≠ 0#32) : (a.srem b).toInt.natAbs < b.toInt.natAbs := by
  have hb' : b.toInt ≠ 0 := fun h => hb (BitVec.eq_of_toInt_eq h)
  rw [BitVec.toInt_srem, Int.natAbs_tmod]
  exact Nat.mod_lt _ (Int.natAbs_pos.mpr hb')

theorem srem_nonneg (ha : 0 ≤ a.toInt) : 0 ≤ (a.srem b).toInt := by
  rw [BitVec.toInt_srem]
  exact Int.tmod_nonneg _ ha

theorem srem_nonpos (ha : a.toInt ≤ 0) : (a.srem b).toInt ≤ 0 := by
  have hneg : 0 ≤ (-a.toInt).tmod b.toInt := Int.tmod_nonneg _ (by omega)
  rw [Int.neg_tmod] at hneg
  rw [BitVec.toInt_srem]
  omega

end

/-- Settles O19: DIV is `sdiv` and `srem`, DIVU is `/` and `%`, with the laws of each. -/
theorem divideResults : Obligations.DivideResults := by
  intro s rs rt
  simp only [← encodeR_rdShamt_zero]
  refine ⟨encodes_of_encode fun _ => rfl, encodes_of_encode fun _ => rfl, fun hhi hlo hb => ⟨fun hc => ?div, ?divu⟩⟩
  case div =>
    refine completes_of_writeDouble rfl hhi hlo fun t hth htl => ?_
    rw [divSigned_of_noCorner hb hc] at hth htl
    rw [hth, htl]
    exact ⟨(sdiv_mul_add_srem hc).symm, srem_natAbs_lt hb, srem_nonneg, srem_nonpos⟩
  case divu =>
    refine completes_of_writeDouble rfl hhi hlo fun t hth htl => ?_
    rw [divUnsigned_of_ne_zero hb] at hth htl
    rw [hth, htl, BitVec.toNat_udiv, BitVec.toNat_umod]
    exact ⟨(Nat.div_add_mod' _ _).symm, Nat.mod_lt _ (Nat.pos_of_ne_zero fun h => hb (BitVec.eq_of_toNat_eq h))⟩

/-! ### The corners of division (R187) -/

section
variable {n : DivNumerics} {undef reported : Word × Word} {a b : Word}

theorem divSigned_zero : divSigned n undef a 0#32 =
    divCorner n undef (a, if 0 ≤ a.toInt then 0xFFFFFFFF#32 else 0x00000001#32) := by
  have hsign : a.getLsbD 31 = true ↔ ¬ 0 ≤ a.toInt := by
    rw [getLsbD_31_eq_decide, decide_eq_true_iff]
    have ha := toInt_cases a
    omega
  rw [divSigned, if_pos rfl, if_congr hsign rfl rfl, ite_not]

theorem divSigned_overflow :
    divSigned n undef 0x80000000#32 0xFFFFFFFF#32 = divCorner n undef (0x00000000#32, 0x80000000#32) := rfl

theorem divUnsigned_zero : divUnsigned n undef a 0#32 = divCorner n undef (a, 0xFFFFFFFF#32) := rfl

/-- HI and LO at a corner: the undefined values, or the reported ones. -/
theorem hiLo_of_divCorner {t : State} (hhi : t.hi = (divCorner n undef reported).1)
    (hlo : t.lo = (divCorner n undef reported).2) :
    (n = .undefined → t.hi = undef.1 ∧ t.lo = undef.2) ∧ (n = .r3000 → t.hi = reported.1 ∧ t.lo = reported.2) := by
  cases n with
  | undefined => exact ⟨fun _ => ⟨hhi, hlo⟩, nofun⟩
  | r3000 => exact ⟨nofun, fun _ => ⟨hhi, hlo⟩⟩

end

/-- Settles O20: the two corners of DIV and the one of DIVU, each by what `DIV_NUMERICS` makes of it. -/
theorem divisionCorners : Obligations.DivisionCorners := by
  intro s rs rt hhi hlo
  constructor
  · intro hcorner
    refine completes_of_writeDouble rfl hhi hlo fun t hth htl => ?_
    rcases hcorner with hb | ⟨ha, hb⟩
    · rw [hb, divSigned_zero] at hth htl
      obtain ⟨hundef, hreported⟩ := hiLo_of_divCorner hth htl
      exact ⟨hundef, fun hn => ⟨fun _ => hreported hn, absurd hb⟩⟩
    · rw [ha, hb, divSigned_overflow] at hth htl
      obtain ⟨hundef, hreported⟩ := hiLo_of_divCorner hth htl
      have hne : s.readRt rt ≠ 0#32 := by rw [hb]; decide
      exact ⟨hundef, fun hn => ⟨fun hz => absurd hz hne, fun _ => hreported hn⟩⟩
  · intro hb
    refine completes_of_writeDouble rfl hhi hlo fun t hth htl => ?_
    rw [hb, divUnsigned_zero] at hth htl
    exact hiLo_of_divCorner hth htl

end Sys2Proof.Machine
end

section
/-! Jumps and branches outside a delay slot (R191 to R206): the conditions on signed values, and where each instruction
goes with what it links. -/

namespace Sys2Proof.Machine

/-! ### The words (R196) -/

/-- The rt, rd and shamt fields as the one zero field of fifteen bits that JR's page prints. -/
theorem encodeR_rtRdShamt_zero (rs : Reg) (funct : BitVec 6) :
    encodeR rs 0#5 0#5 0#5 funct = 0b000000#6 ++ rs ++ 0b000000000000000#15 ++ funct :=
  (encodeR_rdShamt_zero rs 0#5 funct).trans
    (congrArg (· ++ funct) (BitVec.append_assoc (x₁ := 0b000000#6 ++ rs) (x₂ := 0#5) (x₃ := 0#10)))

/-! ### The conditions on signed values (R200 to R203) -/

section
variable (a : Word)

theorem signBit_iff : signBit a = true ↔ a.toInt < 0 := by
  have h : signBit a = decide (a.toInt < 0) := BitVec.msb_eq_toInt (x := a)
  rw [h, decide_eq_true_iff]

theorem not_signBit_iff : (!signBit a) = true ↔ 0 ≤ a.toInt := by
  rw [Bool.not_eq_true', ← Bool.not_eq_true, signBit_iff, not_lt]

theorem toInt_eq_zero_iff : a.toInt = 0 ↔ a = 0#32 :=
  BitVec.toInt_inj (y := 0#32)

theorem isLez_iff : isLez a = true ↔ a.toInt ≤ 0 := by
  rw [isLez, Bool.or_eq_true, signBit_iff, beq_iff_eq, ← toInt_eq_zero_iff, le_iff_lt_or_eq]

theorem isGtz_iff : isGtz a = true ↔ 0 < a.toInt := by
  rw [isGtz, Bool.and_eq_true, not_signBit_iff, bne_iff_ne, ne_eq, ← toInt_eq_zero_iff, lt_iff_le_and_ne, ne_comm]

end

/-! ### Completion outside a delay slot (R191, R340) -/

section
variable {s : State} {rs : Reg}

theorem transfer_next (hs : s.inDelaySlot = false) (t : State) : transfer s t = .next t := by
  rw [transfer, hs]
  rfl

theorem execJalr_next (hs : s.inDelaySlot = false) {rd : Reg} (h : rs ≠ rd) :
    execJalr rs rd s = .next ((s.retireBranch true (s.readRs rs)).setReg rd (linkValue s.pc)) := by
  rw [execJalr, hs, if_neg h]
  rfl

theorem branchLinkIf_next (hs : s.inDelaySlot = false) (h : rs ≠ 31#5) (c : Bool) (off : Imm) :
    branchLinkIf rs c off s =
      .next ((s.retireBranch c (branchTarget s.pc off)).setReg 31#5 (linkValue s.pc)) := by
  rw [branchLinkIf, hs, if_neg h]
  rfl

theorem branchLinkIf_linkRegister (hs : s.inDelaySlot = false) (c : Bool) (off : Imm) :
    branchLinkIf 31#5 c off s = .refused .linkBranchOnLinkRegister := by
  rw [branchLinkIf, hs, if_pos rfl]
  rfl

end

/-! ### Each instruction's word and effect (R193 to R205) -/

section
variable {i : Instr} {w : Word} {s : State} {c : Bool} {p : Prop} [Decidable p] {r : Reg} {a v : Word}

/-- The word of an instruction that branches on c, and its effect by the proposition that c decides. -/
theorem encodes_and_branches (hw : ∀ m, encode m i = w) (hx : exec i s = .next (s.retireBranch c a))
    (hc : c = true ↔ p) :
    Encodes w i ∧ ∃ t, exec i s = .next t ∧ TransfersTo s t (if p then a else s.npc + 4#32) none :=
  ⟨encodes_of_encode hw, _, hx, if_congr hc rfl rfl ▸ s.retireBranch_transfersTo c a⟩

/-- The same of an instruction that links, whether it branches or not. -/
theorem encodes_and_links (hw : ∀ m, encode m i = w) (hx : exec i s = .next ((s.retireBranch c a).setReg r v))
    (hc : c = true ↔ p) :
    Encodes w i ∧ ∃ t, exec i s = .next t ∧ TransfersTo s t (if p then a else s.npc + 4#32) (some (r, v)) :=
  ⟨encodes_of_encode hw, _, hx, if_congr hc rfl rfl ▸ s.retireBranch_link_transfersTo c a r v⟩

end

/-- Settles O34: each branch is taken exactly if its condition, read on the signed values, holds. -/
theorem branchResults : Obligations.BranchResults := by
  rintro s rs rt off _ hs rfl
  have hnext := fun c => transfer_next hs (s.retireBranch c (branchTarget s.pc off))
  exact ⟨encodes_and_branches (fun _ => rfl) (hnext _) beq_iff_eq,
    encodes_and_branches (fun _ => rfl) (hnext _) bne_iff_ne,
    encodes_and_branches (fun _ => rfl) (hnext _) (isLez_iff _),
    encodes_and_branches (fun _ => rfl) (hnext _) (isGtz_iff _),
    encodes_and_branches (fun _ => rfl) (hnext _) (signBit_iff _),
    encodes_and_branches (fun _ => rfl) (hnext _) (not_signBit_iff _)⟩

/-- Settles O33: a jump is a transfer that is always taken. -/
theorem jumpResults : Obligations.JumpResults := by
  intro s target rs rd hs
  refine ⟨⟨encodes_of_encode fun _ => rfl, _, transfer_next hs _, ?j⟩,
    ⟨encodes_of_encode fun _ => rfl, _, transfer_next hs _, ?jal⟩,
    ⟨encodes_of_encode fun _ => encodeR_rtRdShamt_zero rs _, _, transfer_next hs _, ?jr⟩,
    ⟨encodes_of_encode fun _ => rfl, fun hne => ⟨_, execJalr_next hs hne, ?jalr⟩⟩⟩
  case j | jr => exact s.retireBranch_transfersTo true _
  case jal | jalr => exact s.retireBranch_link_transfersTo true _ _ _

/-- Settles O35: the link is written whether the branch is taken or not. -/
theorem linkBranchResults : Obligations.LinkBranchResults := by
  rintro s rs off _ hs hrs rfl
  exact ⟨encodes_and_links (fun _ => rfl) (branchLinkIf_next hs hrs _ off) Iff.rfl,
    encodes_and_links (fun _ => rfl) (branchLinkIf_next hs hrs _ off) (Bool.not_eq_true' _).to_iff⟩

/-- Settles O36: outside a delay slot the check of rs is the first. -/
theorem linkBranchOnLinkRegister : Obligations.LinkBranchOnLinkRegister := fun _ off hs =>
  ⟨branchLinkIf_linkRegister hs _ off, branchLinkIf_linkRegister hs _ off⟩

end Sys2Proof.Machine
end

section
/-! The coprocessor instructions of the four units (R220 to R229, R240): what each checks and where it goes, by the unit
number, and the words of units 1 to 3 that no row gives. -/

namespace Sys2Proof.Machine

/-! ### The checks of the usable bit, of the unit and of coprocessor 0's mode (R220, R224, R225, R240) -/

section
variable {s : State} {z : CopUnit}

theorem bcValid_iff {c : Config} : bcValid c z = true ↔ z = 0#2 ∨ c.bcValidZ.getLsbD z.toNat = true := by
  rw [bcValid, Bool.or_eq_true, beq_iff_eq]

theorem copUndefined_unusable (h : s.cu z = false) : ∃ t, copUndefined z s = .next t ∧ Enters (.cpu z) s t := by
  rw [copUndefined, h]
  exact raise_enters (.cpu z) s

theorem copUndefined_usable (h : s.cu z = true) : copUndefined z s = .refused (.coprocessorUndefined z) := by
  rw [copUndefined, h]
  rfl

theorem State.cp0Open_of_user (hu : s.user = true) (hc : s.cu 0#2 = false) : s.cp0Open = false := by
  rw [State.cp0Open, hu, hc]
  rfl

theorem exec_of_cp0Closed (h : s.cp0Open = false) {rt : Reg} {rd : CopReg} {i : Instr}
    (hi : i ∈ [Instr.mfc0 rt rd, .mtc0 rt rd, .rfe]) : exec i s = raise .ri s := by
  have hclosed : (!s.cp0Open) = true := by rw [h]; rfl
  simp only [List.mem_cons, List.not_mem_nil, or_false] at hi
  obtain rfl | rfl | rfl := hi
  all_goals exact if_pos hclosed

end

/-! ### A coprocessor branch outside a delay slot, check by check (R220 to R226, R340) -/

section
variable {s : State} {z : CopUnit} (hs : s.inDelaySlot = false) (c : Bool) (off : Imm)
include hs

theorem branchOnCop_unusable (h : s.cu z = false) :
    ∃ t, branchOnCop z c off s = .next t ∧ Enters (.cpu z) s t := by
  rw [branchOnCop, hs, h]
  exact raise_enters (.cpu z) s

theorem branchOnCop_invalid (h : s.cu z = true) (hv : bcValid s.cfg z = false) :
    branchOnCop z c off s = .refused (.coprocessorUndefined z) := by
  rw [branchOnCop, hs, h, hv]
  rfl

theorem branchOnCop_transfersTo (h : s.cu z = true) (hv : bcValid s.cfg z = true) :
    ∃ t, branchOnCop z c off s = .next t ∧
      TransfersTo s t (if s.cpcPrev.getLsbD z.toNat = c then branchTarget s.pc off else s.npc + 4#32) none := by
  refine ⟨s.retireBranch (s.condLine z == c) (branchTarget s.pc off), ?next, ?transfers⟩
  case next =>
    rw [branchOnCop, hs, h, hv]
    exact transfer_next hs _
  case transfers =>
    have hc : (s.condLine z == c) = true ↔ s.cpcPrev.getLsbD z.toNat = c := beq_iff_eq
    exact if_congr hc rfl rfl ▸ s.retireBranch_transfersTo (s.condLine z == c) _

end

/-! ### The rows by unit (R225 to R228) -/

section
variable {zs : List CopUnit} {row row' : CopUnit → Instr} {z : CopUnit} {i : Instr}

/-- A table of one row per unit, read by unit. -/
theorem unit_row (h : (z, i) ∈ zs.map fun u => (u, row u)) : z ∈ zs ∧ i = row z := by
  obtain ⟨u, hu, he⟩ := List.mem_map.mp h
  cases he
  exact ⟨hu, rfl⟩

/-- Two such tables one after the other. -/
theorem unit_rows (h : (z, i) ∈ (zs.map fun u => (u, row u)) ++ zs.map fun u => (u, row' u)) :
    z ∈ zs ∧ (i = row z ∨ i = row' z) :=
  (List.mem_append.mp h).elim (fun h => (unit_row h).imp_right .inl) (fun h => (unit_row h).imp_right .inr)

end

section
variable (z : CopUnit) (off : Imm) (rt : Reg) (rd : CopReg) (s : State)

theorem exec_bcfInstr : exec (bcfInstr z off) s = branchOnCop z false off s := by
  obtain rfl | rfl | rfl | rfl := copUnit_cases z <;> rfl

theorem exec_bctInstr : exec (bctInstr z off) s = branchOnCop z true off s := by
  obtain rfl | rfl | rfl | rfl := copUnit_cases z <;> rfl

variable {z}

theorem exec_mfcInstr_external (hz : z ≠ 0#2) : exec (mfcInstr z rt rd) s = copUndefined z s := by
  obtain rfl | rfl | rfl | rfl := copUnit_cases z
  · exact absurd rfl hz
  all_goals rfl

theorem exec_mtcInstr_external (hz : z ≠ 0#2) : exec (mtcInstr z rt rd) s = copUndefined z s := by
  obtain rfl | rfl | rfl | rfl := copUnit_cases z
  · exact absurd rfl hz
  all_goals rfl

end

/-! ### A word of units 1 to 3 (R220, R224, R229) -/

section
variable (op : BitVec 6) (rest : BitVec 26)

theorem fieldRs_encodeJ : fieldRs (encodeJ op rest) = rest.extractLsb' 21 5 :=
  BitVec.extractLsb'_append_eq_of_add_le (by decide)

theorem fieldRt_encodeJ : fieldRt (encodeJ op rest) = rest.extractLsb' 16 5 :=
  BitVec.extractLsb'_append_eq_of_add_le (by decide)

end

section
variable {w : Word} {z : CopUnit} {s : State}

theorem runWord_of_instr {i : Instr} (h : decode s.cfg.multVariant w = .instr i) : runWord w s = exec i s := by
  rw [runWord, h]

theorem runWord_of_copUnassigned (h : decode s.cfg.multVariant w = .copUnassigned z) :
    runWord w s = copUndefined z s := by
  rw [runWord, h]

/-- For an external unit the bits 10:0 of a move do not matter (R220): the move itself does no more. -/
theorem runWord_of_copMove {i : Instr} (hz : z ≠ 0#2) (hi : exec i s = copUndefined z s)
    (h : decode s.cfg.multVariant w = copMove z w i) : runWord w s = copUndefined z s := by
  rw [copMove, if_neg hz] at h
  split at h
  · exact (runWord_of_instr h).trans hi
  · exact runWord_of_copUnassigned h

/-- Whatever its bits 25:0, a word of an external unit is a branch of the unit or does what every other such word
does. -/
theorem runWord_external (s : State) (hop : fieldOp w = 0b0100#4 ++ z) (hz : z ≠ 0#2) :
    (fieldRs w = 0b01000#5 ∧ fieldRt w ∈ [0b00000#5, 0b00001#5] ∧
      ∃ c, runWord w s = branchOnCop z c (fieldImm w) s) ∨
    runWord w s = copUndefined z s := by
  have hd := decode_cop (v := s.cfg.multVariant) hop
  revert hd
  fun_cases decodeCop <;> intro hd
  case case1 hz0 => exact absurd hz0 hz
  case case2 => exact .inr (runWord_of_copUnassigned hd)
  case case3 => exact .inr (runWord_of_copMove hz (exec_mfcInstr_external _ _ s hz) hd)
  case case4 => exact .inr (runWord_of_copMove hz (exec_mtcInstr_external _ _ s hz) hd)
  case case5 hrs hrt =>
    exact .inl ⟨hrs, by simp [hrt], false, (runWord_of_instr hd).trans (exec_bcfInstr z _ s)⟩
  case case6 hrs hrt =>
    exact .inl ⟨hrs, by simp [hrt], true, (runWord_of_instr hd).trans (exec_bctInstr z _ s)⟩
  case case7 | case8 =>
    rw [copNoRow, if_neg hz] at hd
    exact .inr (runWord_of_copUnassigned hd)

end

/-- Settles O6: a word of the unit is a branch or does what `copUndefined` does (`runWord_external`), and no branch has
the fields of a word that no row gives. -/
theorem coprocessorWordUnusable : Obligations.CoprocessorWordUnusable := by
  intro z rest s hz
  obtain ⟨hrs, hrt, c, hrun⟩ | hrun := runWord_external s (fieldOp_encodeJ (0b0100#4 ++ z) rest) hz
  · rw [fieldRs_encodeJ] at hrs
    rw [fieldRt_encodeJ] at hrt
    constructor
    · intro hcu hslot
      have hs : s.inDelaySlot = false := Bool.eq_false_iff.mpr fun h => hslot h hrs hrt
      exact hrun ▸ branchOnCop_unusable hs c _ hcu
    · rintro - (h25 | hrs' | ⟨-, hrt'⟩ | ⟨hrs', -⟩)
      · have hbit : rest.getLsbD 25 = (rest.extractLsb' 21 5).getLsbD 4 := by simp
        rw [hbit, hrs] at h25
        exact absurd h25 (by decide)
      · exact absurd (by simp [hrs]) hrs'
      · exact absurd hrt hrt'
      · exact absurd (hrs ▸ hrs') (by decide)
  · exact ⟨fun hcu _ => hrun ▸ copUndefined_unusable hcu, fun hcu _ => hrun ▸ copUndefined_usable hcu⟩

/-! ### The moves of units 1 to 3 (R220, R227, R228) -/

/-- Settles O46: a move of an external unit does what `copUndefined` does. -/
theorem externalCoprocessorMoves : Obligations.ExternalCoprocessorMoves := by
  intro s rt rd z i
  refine ⟨fun hi => ?mfc, fun hi => ?mtc, fun hi => ?effect⟩
  case mfc =>
    obtain ⟨-, rfl⟩ := unit_row (zs := [1#2, 2#2, 3#2]) (row := (mfcInstr · rt rd)) hi
    exact encodes_of_encode fun _ => encode_mfcInstr rt rd
  case mtc =>
    obtain ⟨-, rfl⟩ := unit_row (zs := [1#2, 2#2, 3#2]) (row := (mtcInstr · rt rd)) hi
    exact encodes_of_encode fun _ => encode_mtcInstr rt rd
  case effect =>
    obtain ⟨hzs, hi⟩ :=
      unit_rows (zs := [1#2, 2#2, 3#2]) (row := (mfcInstr · rt rd)) (row' := (mtcInstr · rt rd)) hi
    have hz : z ≠ 0#2 := by rintro rfl; exact absurd hzs (by decide)
    have hexec : exec i s = copUndefined z s := by
      obtain rfl | rfl := hi
      · exact exec_mfcInstr_external rt rd s hz
      · exact exec_mtcInstr_external rt rd s hz
    rw [hexec]
    exact ⟨copUndefined_unusable, copUndefined_usable⟩

/-! ### The branches and the instructions of coprocessor 0 (R222, R224 to R226, R240, R242) -/

/-- Settles O37: past the three checks a coprocessor branch is a branch on the sampled line. -/
theorem coprocessorBranchResults : Obligations.CoprocessorBranchResults := by
  rintro s off _ hs rfl
  constructor
  · intro z i hi
    obtain ⟨-, rfl⟩ := unit_row (zs := [0#2, 1#2, 2#2, 3#2]) (row := (bcfInstr · off)) hi
    refine ⟨encodes_of_encode fun _ => encode_bcfInstr off, fun hcu hv => ?_⟩
    exact exec_bcfInstr z off s ▸ branchOnCop_transfersTo hs false off hcu (bcValid_iff.mpr hv)
  · intro z i hi
    obtain ⟨-, rfl⟩ := unit_row (zs := [0#2, 1#2, 2#2, 3#2]) (row := (bctInstr · off)) hi
    refine ⟨encodes_of_encode fun _ => encode_bctInstr off, fun hcu hv => ?_⟩
    exact exec_bctInstr z off s ▸ branchOnCop_transfersTo hs true off hcu (bcValid_iff.mpr hv)

/-- Settles O42: the branches stop at the check of the usable bit or of the unit, the instructions of coprocessor 0 at
that of its mode. -/
theorem coprocessorTraps : Obligations.CoprocessorTraps := by
  constructor
  · intro s off z i hs hi
    have hexec : ∃ c, exec i s = branchOnCop z c off s := by
      obtain ⟨-, rfl | rfl⟩ :=
        unit_rows (zs := [0#2, 1#2, 2#2, 3#2]) (row := (bcfInstr · off)) (row' := (bctInstr · off)) hi
      · exact ⟨false, exec_bcfInstr z off s⟩
      · exact ⟨true, exec_bctInstr z off s⟩
    obtain ⟨c, hexec⟩ := hexec
    rw [hexec]
    refine ⟨branchOnCop_unusable hs c off, fun hcu hz hv => branchOnCop_invalid hs c off hcu ?_⟩
    exact Bool.eq_false_iff.mpr fun hvalid => (bcValid_iff.mp hvalid).elim hz (by simp [hv])
  · intro s rt rd i hi hu hc
    exact exec_of_cp0Closed (State.cp0Open_of_user hu hc) hi ▸ raise_enters .ri s

end Sys2Proof.Machine
end

section
/-! A step from user mode with Cu0 = 0 (R240, R242): MTC0 and RFE are closed, so SR, Cause and the coprocessor registers
change only by exception entry or reset. -/

namespace Sys2Proof.Machine

section
variable {s t : State}

theorem SameStatus.endStep (h : SameStatus s t) : SameStatus s t.endStep :=
  ⟨by rw [State.endStep_sr, h.sr], by rw [State.endStep_cause, h.cause]⟩

theorem SameCop.endStep (h : SameCop s t) : SameCop s t.endStep :=
  ⟨by rw [State.endStep_epc, h.epc], by rw [State.endStep_badVAddr, h.badVAddr], by rw [State.endStep_cpr, h.cpr]⟩

/-- Between two states with no MTC0 just before them, the same SR is the same mode (R28). -/
theorem SameStatus.user_eq (h : SameStatus s t) (hs : s.mtcShadow = none) (ht : t.mtcShadow = none) :
    t.user = s.user := by
  rw [State.user_of_noShadow hs, State.user_of_noShadow ht, h.sr]

/-- With coprocessor 0 closed, an instruction keeps the system registers or enters an exception: of the ways in which
the status changes, MTC0's and RFE's need it open (R240). -/
theorem Effect.keeps_system_or_enters {i : Instr} (he : Effect i s t) (hc : s.cp0Open = false) :
    (SameStatus s t ∧ SameCop s t ∧ t.mtcShadow = none) ∨ ∃ e, t = takeException e s.land := by
  cases he with
  | enter e => exact .inr ⟨e, rfl⟩
  | writeStatus _ _ _ ho | writeCause _ _ _ ho | returnFrom _ ho => simp [hc] at ho
  | _ => exact .inl ⟨⟨by simp, by simp⟩, ⟨by simp, by simp, by simp⟩, by simp⟩

theorem runWord_keeps_system_or_enters {w : Word} (h : runWord w s = .next t) (hc : s.cp0Open = false) :
    (SameStatus s t ∧ SameCop s t ∧ t.mtcShadow = none) ∨ ∃ e, t = takeException e s.land := by
  obtain ⟨i, -, he⟩ | he := runWord_effect h
  · exact he.keeps_system_or_enters hc
  · exact .inr he

end

/-- Settles O59: reset and an event before the instruction as they are, and the word's run with coprocessor 0 closed. -/
theorem userKeepsSystemRegisters : Obligations.UserKeepsSystemRegisters := by
  intro s t hs hku hcu hst
  have huser : s.user = true := by rw [State.user_of_noShadow hs, hku]
  have hclosed : s.cp0Open = false :=
    State.cp0Open_of_user huser (by rw [State.cu, State.srView_of_noShadow hs]; exact hcu)
  rw [step_of_settled (.inl hs)] at hst
  obtain ⟨hr, rfl⟩ | ⟨hr, e, rfl⟩ | ⟨hr, -, w, u, -, hrun, rfl⟩ := stepUnder_cases hst
  · exact .inr (.inr ⟨hr, by simp, by simp [State.applyReset_user]⟩)
  · obtain ⟨hentry, -⟩ := preempt_endStep_enters e s
    exact .inr (.inl ⟨hr, ⟨e, hentry⟩, by simp [preempt], by simp [preempt, takeException_user]⟩)
  · obtain ⟨hst, hcop, hnone⟩ | ⟨e, rfl⟩ := runWord_keeps_system_or_enters hrun hclosed
    · exact .inl ⟨hr, hst.endStep, hcop.endStep, by rw [State.endStep_user, hst.user_eq hs hnone, huser]⟩
    · exact .inr (.inl ⟨hr, ⟨e, (entryWrites_of_eq rfl).endStep⟩, by simp, by simp [takeException_user]⟩)

end Sys2Proof.Machine
end

section
/-! MFC0, MTC0 and RFE where coprocessor 0 is open, the traps beside them, and the step after an MTC0 (R240 to R248). -/

namespace Sys2Proof.Machine

/-! ### Bit fields of SR and Cause (R243, R248, R290, R291) -/

section
variable (c d v : Word)

theorem causeWrite_ip : (causeWrite c d).extractLsb' 8 2 = d.extractLsb' 8 2 := by
  unfold causeWrite; ext i hi; simp only [BitVec.getElem_extractLsb']; grind

theorem causeWrite_above : (causeWrite c d).extractLsb' 10 22 = c.extractLsb' 10 22 := by
  ext i hi; simp only [BitVec.getElem_extractLsb']; exact causeWrite_other c d (by omega)

theorem causeWrite_below : (causeWrite c d).extractLsb' 0 8 = c.extractLsb' 0 8 := by
  ext i hi; simp only [BitVec.getElem_extractLsb']; exact causeWrite_other c d (by omega)

/-- The current and previous pairs are popped separately. -/
theorem popStatus_current : (popStatus c v).extractLsb' 0 2 = v.extractLsb' 2 2 := by
  unfold popStatus; ext i hi; simp only [BitVec.getElem_extractLsb']; grind

theorem popStatus_previous : (popStatus c v).extractLsb' 2 2 = v.extractLsb' 4 2 := by
  unfold popStatus; ext i hi; simp only [BitVec.getElem_extractLsb']; grind

theorem popStatus_above : (popStatus c v).extractLsb' 6 26 = c.extractLsb' 6 26 := by
  unfold popStatus; ext i hi; simp only [BitVec.getElem_extractLsb']; grind

/-- The push moves the current and previous pairs up together. -/
theorem pushStatus_pairs : (pushStatus c v).extractLsb' 2 4 = v.extractLsb' 0 4 := by
  unfold pushStatus; ext i hi; simp only [BitVec.getElem_extractLsb']; grind

theorem pushStatus_previous : (pushStatus c v).extractLsb' 2 2 = v.extractLsb' 0 2 := by
  unfold pushStatus; ext i hi; simp only [BitVec.getElem_extractLsb']; grind

theorem pushStatus_old : (pushStatus c v).extractLsb' 4 2 = v.extractLsb' 2 2 := by
  unfold pushStatus; ext i hi; simp only [BitVec.getElem_extractLsb']; grind

end

/-- The fields of a word of Cause's layout (R291). -/
theorem causeLayout_fields {w : Word} {bd u30 u7 : BitVec 1} {ce sw u0 : BitVec 2} {u16 : BitVec 12} {irq : BitVec 6}
    {code : BitVec 5} (h : w = bd ++ u30 ++ ce ++ u16 ++ (irq ++ sw) ++ u7 ++ code ++ u0) :
    w.getLsbD 31 = bd.getLsbD 0 ∧ w.extractLsb' 28 2 = ce ∧ w.extractLsb' 10 6 = irq ∧ w.extractLsb' 8 2 = sw ∧
      w.extractLsb' 2 5 = code := by
  subst h
  refine ⟨by grind, ?_, ?_, ?_, ?_⟩
  all_goals ext i hi; simp only [BitVec.getElem_extractLsb']; grind

/-- What MFC0 reads of Cause: the recorded fields, and the lines as they are now (R248, R291, R296). -/
theorem State.causeRead_fields (s : State) (u : Word) :
    (s.causeRead u).getLsbD 31 = s.causeView.getLsbD 31 ∧
    (s.causeRead u).extractLsb' 28 2 = s.causeView.extractLsb' 28 2 ∧
    (s.causeRead u).extractLsb' 10 6 = s.pins.irq ∧
    (s.causeRead u).extractLsb' 8 2 = s.causeView.extractLsb' 8 2 ∧
    (s.causeRead u).extractLsb' 2 5 = s.causeView.extractLsb' 2 5 := by
  obtain ⟨hbd, hrest⟩ := causeLayout_fields (w := s.causeRead u) rfl
  exact ⟨by rw [hbd]; simp, hrest⟩

/-! ### MFC0 (R241, R248) -/

section
variable {s : State}

/-- The register numbers of `CP0_MAP`'s default (R248). -/
theorem State.cp0Read_of_defaultMap (hm : s.cfg.cp0Map = Config.default.cp0Map) (rd : CopReg) :
    s.cp0Read rd = if rd = 12#5 then s.srView else if rd = 14#5 then s.epc
      else if rd = 13#5 then s.causeRead (s.free slotCop) else if rd = 8#5 then s.badVAddr else s.free slotCop := by
  rw [State.cp0Read, hm]
  rfl

theorem exec_mfc0_of_open (ho : s.cp0Open = true) (rt : Reg) (rd : CopReg) :
    exec (.mfc0 rt rd) s = .next (s.retireMove rt (s.cp0Read rd)) :=
  if_neg (by simp [ho])

end

/-- Settles O40: `retireMove` delivers what `cp0Read` gives, register by register. -/
theorem mfc0Results : Obligations.Mfc0Results := by
  intro s rt rd
  refine ⟨encodes_of_encode fun _ => rfl, fun ho hs hm => ?_⟩
  refine ⟨_, _, exec_mfc0_of_open ho rt rd, s.retireMove_deliversTo rt _, ?sr, ?epc, ?badVAddr, ?cause, ?other⟩
  all_goals rw [State.cp0Read_of_defaultMap hm]
  case sr => rintro rfl; exact State.srView_of_noShadow hs
  case epc => rintro rfl; rfl
  case badVAddr => rintro rfl; rfl
  case cause =>
    rintro rfl
    exact State.causeView_of_noShadow hs ▸ s.causeRead_fields (s.free slotCop)
  case other =>
    intro hrd
    simp only [List.mem_cons, List.not_mem_nil, or_false, not_or] at hrd
    obtain ⟨h12, h14, h8, h13⟩ := hrd
    rw [if_neg h12, if_neg h14, if_neg h13, if_neg h8]
    rfl

/-! ### MTC0 and RFE (R243, R245, R248) -/

section
variable (s : State)

/-- Completion in sequence with new values in SR, Cause and `mtc_shadow` changes nothing else. -/
theorem State.retireSeq_status_advances (sr cause : Word) (m : Option MtcShadow) :
    Advances s { s.retireSeq with sr := sr, cause := cause, mtcShadow := m } where
  registers q := (State.gprRead_congr rfl q).trans (s.gprRead_retireSeq q)
  noPending := by simp
  goes := ⟨by simp, by simp, by simp⟩
  memory := ⟨fun a => by simp, by simp⟩
  inputs := ⟨by simp, by simp, by simp, by simp, by simp⟩
  aged := ⟨by simp, by simp⟩
  notMem := by simp

theorem State.retireSeq_sameHiLo : SameHiLo s s.retireSeq := ⟨by simp, by simp, by simp⟩

theorem State.retireSeq_sameCop : SameCop s s.retireSeq := ⟨by simp, by simp, by simp⟩

/-- RFE's pop of SR and its completion do not meet. -/
theorem State.returnStatus_retireSeq :
    s.returnStatus.retireSeq = { s.retireSeq with sr := popStatus s.sr s.srView } := by
  simp only [State.retireSeq, State.retire, State.land, State.returnStatus_loadPending]
  cases s.loadPending with
  | none => rfl
  | some p => simp only [State.setReg]; split <;> rfl

variable {s} (ho : s.cp0Open = true)
include ho

theorem exec_mtc0_sr (hm : s.cfg.cp0Map = Config.default.cp0Map) (rt : Reg) :
    exec (.mtc0 rt 12#5) s = .next { s.retireSeq with sr := s.readRt rt, mtcShadow := some (.sr s.sr) } :=
  (if_neg (by simp [ho])).trans (if_pos (by rw [hm]; rfl))

theorem exec_mtc0_cause (hm : s.cfg.cp0Map = Config.default.cp0Map) (rt : Reg) :
    exec (.mtc0 rt 13#5) s = .next
      { s.retireSeq with cause := causeWrite s.cause (s.readRt rt), mtcShadow := some (.cause s.cause) } :=
  (if_neg (by simp [ho])).trans ((if_neg (by rw [hm]; decide)).trans (if_pos (by rw [hm]; rfl)))

theorem exec_mtc0_other (hm : s.cfg.cp0Map = Config.default.cp0Map) (rt : Reg) {rd : CopReg} (h12 : rd ≠ 12#5)
    (h13 : rd ≠ 13#5) : exec (.mtc0 rt rd) s = .refused (.cp0WriteUnmodelled rd) :=
  (if_neg (by simp [ho])).trans ((if_neg (by rw [hm]; exact h12)).trans (if_neg (by rw [hm]; exact h13)))

theorem exec_rfe_of_open (hl : s.lastWasMem = false) :
    exec .rfe s = .next { s.retireSeq with sr := popStatus s.sr s.srView } :=
  (if_neg (by simp [ho])).trans ((if_neg (by simp [hl])).trans (congrArg _ s.returnStatus_retireSeq))

theorem exec_rfe_after_memory (hl : s.lastWasMem = true) : exec .rfe s = .refused .memoryBeforeRfe :=
  (if_neg (by simp [ho])).trans (if_pos hl)

end

/-- Settles O43: RFE completes in sequence with SR popped. -/
theorem rfeResult : Obligations.RfeResult := by
  refine ⟨encodes_of_encode fun _ => rfl, fun s ho => ⟨fun hl hs => ?_, exec_rfe_after_memory ho⟩⟩
  have hadv : Advances s { s.retireSeq with sr := popStatus s.sr s.srView } := s.retireSeq_status_advances _ _ _
  have hview : s.srView = s.sr := State.srView_of_noShadow hs
  refine ⟨_, exec_rfe_of_open ho hl, { hadv with shadow := by simp }, { s.retireSeq_sameHiLo with },
    { s.retireSeq_sameCop with }, by simp, ?_, ?_, popStatus_rest _ _⟩
  · exact (popStatus_current _ _).trans (by rw [hview])
  · exact (popStatus_previous _ _).trans (by rw [hview])

theorem State.returnStatus_sr_of_noShadow {s : State} (h : s.mtcShadow = none) :
    s.returnStatus.sr = popStatus s.sr s.sr := by
  rw [State.returnStatus_sr, State.srView_of_noShadow h]

theorem takeException_sr_of_noShadow (e : Exc) {s : State} (h : s.mtcShadow = none) :
    (takeException e s).sr = pushStatus s.sr s.sr := by
  rw [State.takeException_sr, State.srView_of_noShadow h]

/-- Settles O44: the pairs that the pops restore are those that the pushes moved up. -/
theorem returnUndoesEntry : Obligations.ReturnUndoesEntry := by
  intro e f s hs
  have once : (takeException e s).returnStatus.sr =
      popStatus (pushStatus s.sr s.sr) (pushStatus s.sr s.sr) := by
    rw [State.returnStatus_sr_of_noShadow (by simp), takeException_sr_of_noShadow e hs]
  refine ⟨⟨?pairs, ?above⟩, ?twice⟩
  case pairs => rw [once, popStatus_stack, pushStatus_pairs]
  case above => rw [once, popStatus_above, pushStatus_rest]
  case twice =>
    rw [State.returnStatus_sr_of_noShadow (by simp), popStatus_current,
      State.returnStatus_sr_of_noShadow (by simp), popStatus_previous,
      takeException_sr_of_noShadow f (by simp), pushStatus_old,
      takeException_sr_of_noShadow e hs, pushStatus_previous]

/-! ### The step after an MTC0 (R247, R349) -/

section
variable {s : State}

theorem State.not_settled (hv : s.cfg.mtcVisibility = .unspecified) (hx : s.mtcShadow ≠ none) : ¬ s.Settled :=
  not_or.mpr ⟨hx, not_not.mpr hv⟩

theorem step_withVisibility {v : MtcVisibility} (hv : v ≠ .unspecified) :
    step (s.withVisibility v) = stepUnder (s.withVisibility v) :=
  step_of_settled (.inr hv)

/-- SR right after an MTC0 to it is the new value or the old one (R247). -/
theorem State.srView_of_shadow {old : Word} (hx : s.mtcShadow = some (.sr old)) :
    (s.cfg.mtcVisibility = .next → s.srView = s.sr) ∧ (s.cfg.mtcVisibility = .afterOne → s.srView = old) := by
  unfold State.srView
  rw [hx]
  exact ⟨fun h => by rw [h], fun h => by rw [h]⟩

/-- The one way in which MTC0 to SR leaves `mtc_shadow` set: it is not trapped. -/
theorem exec_mtc0_sr_of_shadow {t : State} {rt : Reg} (hm : s.cfg.cp0Map = Config.default.cp0Map)
    (ht : exec (.mtc0 rt 12#5) s = .next t) (hx : t.mtcShadow ≠ none) :
    t = { s.retireSeq with sr := s.readRt rt, mtcShadow := some (.sr s.sr) } := by
  cases ho : s.cp0Open with
  | true => exact (Host.Outcome.next.inj ((exec_mtc0_sr ho hm rt).symm.trans ht)).symm
  | false =>
    rw [exec_of_cp0Closed (rt := rt) (rd := 12#5) ho (by simp)] at ht
    cases ht
    exact absurd (State.takeException_mtcShadow .ri s.land) hx

end

/-- Settles O52: the two answers by `step_cases` and `agreeOutcome`; the MFC0 reads the view of SR. -/
theorem mtc0Visibility : Obligations.Mtc0Visibility := by
  refine ⟨fun s u hv hx h => ?agreed, fun s a b hv hx ha hb => ?compared, fun s t u rt r hr hm ht hx ho hu => ?read⟩
  case agreed =>
    obtain ⟨hs, -⟩ | ⟨-, a, b, ha, hb, hau, hbu⟩ := step_cases h
    · exact absurd hs (State.not_settled hv hx)
    · exact ⟨a, b, (step_withVisibility (by decide)).trans ha, (step_withVisibility (by decide)).trans hb,
        hau.symm, hbu.symm⟩
  case compared =>
    rw [step_withVisibility (by decide)] at ha hb
    obtain ⟨-, hstep⟩ := step_of_not_settled (State.not_settled hv hx)
    rw [hstep, ha, hb]
    exact ⟨fun hab => if_pos hab, fun hab => if_neg hab⟩
  case read =>
    have hcfg : t.cfg = s.cfg := (exec_effect _ ht).cfg_eq
    have hwritten := exec_mtc0_sr_of_shadow hm ht hx
    have hread : t.cp0Read 12#5 = t.srView := State.cp0Read_of_defaultMap (hcfg ▸ hm) _
    obtain ⟨hnext, hafter⟩ := State.srView_of_shadow (s := t) (old := s.sr) (by rw [hwritten])
    rw [exec_mfc0_of_open ho, hread] at hu
    cases hu
    rw [State.retireMove_loadPending, if_neg hr]
    exact ⟨fun hv => by rw [hnext (hcfg ▸ hv), hwritten], fun hv => by rw [hafter (hcfg ▸ hv)]⟩

/-- Settles O41: SR and Cause by what `exec` writes of them, every other register by the refusal. -/
theorem mtc0Results : Obligations.Mtc0Results := by
  intro s rt rd
  refine ⟨encodes_of_encode fun _ => rfl, fun ho hm => ⟨?sr, ?cause, exec_mtc0_other ho hm rt⟩⟩
  case sr =>
    rintro rfl
    exact ⟨_, exec_mtc0_sr ho hm rt, s.retireSeq_status_advances _ _ _, { s.retireSeq_sameHiLo with },
      { s.retireSeq_sameCop with }, rfl, by simp, rfl⟩
  case cause =>
    rintro rfl
    exact ⟨_, exec_mtc0_cause ho hm rt, s.retireSeq_status_advances _ _ _, { s.retireSeq_sameHiLo with },
      { s.retireSeq_sameCop with }, by simp, causeWrite_ip _ _, causeWrite_above _ _, causeWrite_below _ _, rfl⟩

/-! ### SYSCALL, BREAK and the TLB instructions (R244, R261, R262) -/

/-- Settles O45: each is the encoder's word and raises its exception. -/
theorem trapInstructionsEnter : Obligations.TrapInstructionsEnter := fun s _ =>
  ⟨⟨encodes_of_encode fun _ => rfl, raise_enters .sys s⟩, ⟨encodes_of_encode fun _ => rfl, raise_enters .bp s⟩,
    ⟨encodes_of_encode fun _ => rfl, raise_enters .ri s⟩, ⟨encodes_of_encode fun _ => rfl, raise_enters .ri s⟩,
    ⟨encodes_of_encode fun _ => rfl, raise_enters .ri s⟩, ⟨encodes_of_encode fun _ => rfl, raise_enters .ri s⟩⟩

end Sys2Proof.Machine
end

section
/-! The moves from and to HI and LO (R263 to R266), outside the refusals of their windows (R344), with what R345 makes of
the half of a fresh multiply or divide result that a move does not write. -/

namespace Sys2Proof.Machine

/-! ### The words (R263, R265) -/

/-- The rs and rt fields as the one zero field of ten bits that the pages print. -/
theorem encodeR_rsRt_zero (rd : Reg) (funct : BitVec 6) :
    encodeR 0#5 0#5 rd 0#5 funct = 0b000000#6 ++ 0b0000000000#10 ++ rd ++ 0b00000#5 ++ funct := rfl

/-! ### Moves from HI and LO -/

section
variable (s : State)

/-- A register result is all that a move from HI or LO does, apart from the window it opens and `md_fresh`. -/
theorem State.retireReg_windows_computesInto (rd : Reg) (v : Word) {mfHi mfLo : Option MfRecord}
    (hhi : mfHi = ageMf s.mfHi) (hlo : mfLo = ageMf s.mfLo) :
    ComputesInto s { s.retireReg rd v with mfHi := mfHi, mfLo := mfLo, mdFresh := s.mdFresh } rd v := by
  rw [hhi, hlo, ← s.retireReg_mfHi rd v, ← s.retireReg_mfLo rd v, ← s.retireReg_mdFresh rd v]
  exact s.retireReg_computesInto rd v

/-- MFHI opens its own window, and LO's moves on. -/
theorem exec_mfhi_result (rd : Reg) :
    ∃ t, exec (.mfhi rd) s = .next t ∧ t.mfHi = some { age := 0, rd := rd } ∧ t.mdFresh = false ∧
      t.mfLo = ageMf s.mfLo ∧ ComputesInto s { t with mfHi := ageMf s.mfHi, mdFresh := s.mdFresh } rd s.hi :=
  have hlo := s.retireReg_mfLo rd s.hi
  ⟨_, rfl, rfl, rfl, hlo, s.retireReg_windows_computesInto rd s.hi rfl hlo⟩

/-- MFLO opens its own window, and HI's moves on. -/
theorem exec_mflo_result (rd : Reg) :
    ∃ t, exec (.mflo rd) s = .next t ∧ t.mfLo = some { age := 0, rd := rd } ∧ t.mdFresh = false ∧
      t.mfHi = ageMf s.mfHi ∧ ComputesInto s { t with mfLo := ageMf s.mfLo, mdFresh := s.mdFresh } rd s.lo :=
  have hhi := s.retireReg_mfHi rd s.lo
  ⟨_, rfl, rfl, rfl, hhi, s.retireReg_windows_computesInto rd s.lo hhi rfl⟩

end

/-! ### Moves to HI and LO -/

section
variable {s : State}

theorem exec_mthi_next (h : s.mfHi = none) (rs : Reg) : exec (.mthi rs) s = .next { s.retireSeq with
    hi := s.readRs rs, lo := if s.mdFresh then s.free slotLo else s.lo, mdFresh := false } :=
  if_neg (by simp [h])

theorem exec_mtlo_next (h : s.mfLo = none) (rs : Reg) : exec (.mtlo rs) s = .next { s.retireSeq with
    lo := s.readRs rs, hi := if s.mdFresh then s.free slotHi else s.hi, mdFresh := false } :=
  if_neg (by simp [h])

/-- Completion in sequence with new values in HI and LO that are no multiply or divide result (R345). -/
theorem completes_of_hiLoMove {i : Instr} {h l : Word} {P : State → Prop}
    (hx : exec i s = .next { s.retireSeq with hi := h, lo := l, mdFresh := false })
    (hP : ∀ t : State, t.hi = h → t.lo = l → P t) :
    ∃ t, exec i s = .next t ∧ Proceeds s t ∧ SameStatus s t ∧ SameCop s t ∧ t.mdFresh = false ∧ P t :=
  ⟨_, hx, s.retireSeq_hiLo_proceeds h l false, ⟨by simp, by simp⟩, { s.retireSeq_sameCop with }, rfl, hP _ rfl rfl⟩

end

/-- Settles O21: a move from HI or LO is `retireReg` with a window, a move to one is `retireSeq` with new HI and LO. -/
theorem hiLoMoveResults : Obligations.HiLoMoveResults := by
  intro s r
  refine ⟨⟨encodes_of_encode fun _ => encodeR_rsRt_zero r _, exec_mfhi_result s r⟩,
    ⟨encodes_of_encode fun _ => encodeR_rsRt_zero r _, exec_mflo_result s r⟩,
    ⟨encodes_of_encode fun _ => encodeR_rtRdShamt_zero r _, fun hhi => ?mthi⟩,
    ⟨encodes_of_encode fun _ => encodeR_rtRdShamt_zero r _, fun hlo => ?mtlo⟩⟩
  case mthi => exact completes_of_hiLoMove (exec_mthi_next hhi r) fun _ hth htl => ⟨hth, htl⟩
  case mtlo => exact completes_of_hiLoMove (exec_mtlo_next hlo r) fun _ hth htl => ⟨htl, hth⟩

end Sys2Proof.Machine
end

section
/-! Exception entry as a whole (R283, R290, R295), and the interrupt taken in place of an instruction (R296). -/

namespace Sys2Proof.Machine

/-! ### What entry leaves (R290, R295) -/

/-- The pushed KU/IE stack has IEc = 0 (R290 step 3). -/
theorem pushStatus_iec (sr view : Word) : (pushStatus sr view).getLsbD 0 = false := by
  unfold pushStatus; grind

theorem takeException_interruptsOn (e : Exc) (s : State) : (takeException e s).interruptsOn = false := by
  rw [State.interruptsOn, State.srView_of_noShadow (by simp), State.takeException_sr, pushStatus_iec]

/-- Settles O47: the writes of R290, the mode by the pushed stack, and no other field set. -/
theorem exceptionEntry : Obligations.ExceptionEntry := fun e s =>
  ⟨takeException_entryWrites e s, takeException_user e s, takeException_interruptsOn e s,
    State.gprRead_congr (State.takeException_gpr e s), State.takeException_loadPending e s, ⟨rfl, rfl, rfl⟩,
    .of_eq (State.takeException_mem e s) (State.takeException_stored e s), ⟨rfl, rfl, rfl, rfl, rfl⟩,
    State.takeException_cpr e s⟩

/-! ### The default codes and vectors (R283, R290) -/

/-- R283's table is `excCode` of each exception, read by exception. -/
theorem excCode_of_row {c : ExcCodes} {es : List Exc} {e : Exc} {k : BitVec 5}
    (h : (e, k) ∈ es.map fun x => (x, excCode c x)) : excCode c e = k := by
  obtain ⟨x, -, hx⟩ := List.mem_map.mp h
  cases hx
  rfl

/-- With no MTC0 just before, the vector goes by SR.BEV as it stands (R290 step 4). -/
theorem takeException_pc_of_default {s : State} (hc : s.cfg = Config.default) (hs : s.mtcShadow = none) (e : Exc) :
    (takeException e s).pc = if s.sr.getLsbD 22 then 0xBFC00180#32 else 0x80000080#32 := by
  rw [(takeException_entryWrites e s).pc, State.srView_of_noShadow hs, hc]
  rfl

/-- Settles O48: the fields of `EntryWrites` at the default parameters. -/
theorem defaultCodesAndVectors : Obligations.DefaultCodesAndVectors := by
  intro s a z hc hs
  refine ⟨fun e k hk => ⟨?code, takeException_pc_of_default hc hs e⟩, (takeException_entryWrites (.cpu z) s).unit,
    (takeException_entryWrites (.adel a) s).badVAddr, (takeException_entryWrites (.ades a) s).badVAddr⟩
  rw [(takeException_entryWrites e s).excCode, hc]
  exact excCode_of_row (es := [.int, .adel a, .ades a, .ibe, .dbe, .sys, .bp, .ri, .cpu z, .ov]) hk

/-! ### The interrupt (R296) -/

theorem State.interruptNow_of_unmasked {s : State} (hie : s.srView.getLsbD 0 = true)
    (hline : ((s.pins.irq ++ s.causeView.extractLsb' 8 2 : BitVec 8) &&& s.srView.extractLsb' 8 8) ≠ 0#8) :
    s.interruptNow = true := by
  rw [State.interruptNow, Bool.and_eq_true, bne_iff_ne]
  exact ⟨hie, hline⟩

/-- A step in which an interrupt comes before the instruction (R35 step 2). -/
theorem stepUnder_of_interrupt {s : State} (hr : s.pins.reset = false) (hi : s.interruptNow = true) :
    stepUnder s = .next (preempt .int s).endStep := by
  simp [stepUnder, hr, hi]

/-- Settles O49: the step is that of an event before the instruction (`preempt_endStep_enters`). -/
theorem interruptEntry : Obligations.InterruptEntry := by
  intro s hs hr hie hline
  have hstep : step s = .next (preempt .int s).endStep :=
    (step_of_settled hs).trans (stepUnder_of_interrupt hr (State.interruptNow_of_unmasked hie hline))
  obtain ⟨hentry, hregs, hhilo, hmem⟩ := preempt_endStep_enters .int s
  exact ⟨_, hstep, hentry, hregs, hhilo, hmem, by simp [preempt], by simp [preempt], by simp [preempt]⟩

end Sys2Proof.Machine
end

section
/-! The jumps and branches that are refused: every one in a delay slot (R340), and JALR with rs = rd (R197). -/

namespace Sys2Proof.Machine

/-! ### Each way to transfer tests the delay slot first (R340) -/

section
variable {s : State} (hs : s.inDelaySlot = true)
include hs

theorem transfer_inDelaySlot (t : State) : transfer s t = .refused .branchInDelaySlot :=
  if_pos hs

theorem branchLinkIf_inDelaySlot (rs : Reg) (c : Bool) (off : Imm) :
    branchLinkIf rs c off s = .refused .branchInDelaySlot :=
  if_pos hs

theorem branchOnCop_inDelaySlot (z : CopUnit) (c : Bool) (off : Imm) :
    branchOnCop z c off s = .refused .branchInDelaySlot :=
  if_pos hs

theorem execJalr_inDelaySlot (rs rd : Reg) : execJalr rs rd s = .refused .branchInDelaySlot :=
  if_pos hs

theorem exec_transfer_inDelaySlot {i : Instr} (hi : isTransfer i = true) :
    exec i s = .refused .branchInDelaySlot := by
  cases i
  case j | jal | jr | beq | bne | blez | bgtz | bltz | bgez => exact transfer_inDelaySlot hs _
  case jalr => exact execJalr_inDelaySlot hs _ _
  case bltzal | bgezal => exact branchLinkIf_inDelaySlot hs _ _ _
  case bc0f | bc0t | bc1f | bc1t | bc2f | bc2t | bc3f | bc3t => exact branchOnCop_inDelaySlot hs _ _ _
  all_goals cases hi

end

/-! ### JALR with one register (R197) -/

theorem execJalr_sameRegister {s : State} (hs : s.inDelaySlot = false) (r : Reg) :
    execJalr r r s = .refused .jalrSameRegister := by
  rw [execJalr, hs]
  exact if_pos rfl

/-- Settles O38: the test for a delay slot comes first, and outside one JALR compares its registers. -/
theorem undefinedTransfersRefused : Obligations.UndefinedTransfersRefused :=
  ⟨fun _ _ hi hs => exec_transfer_inDelaySlot hs hi, fun r _ hs => execJalr_sameRegister hs r⟩

end Sys2Proof.Machine
end
